-- ==== Sys2Proof/Word.lean ====
section
/-! DEFINITION. The words, the 256-entry tables and the records of the tables of HCB-1 (10_state.md
section 4). -/

namespace Sys2Proof

/-- A byte of a buffer; also a symbol (00_scope.md R3, section 8). -/
abbrev Byte := BitVec 8

/-- A command word (30_encoding.md R70). -/
abbrev Word := BitVec 32

/-- A 64-bit register, the width of a host access to `REG` (00_scope.md section 4, `REG_W`). -/
abbrev Reg := BitVec 64

/-- A table with one entry for each of the 256 symbols (10_state.md R37 to R40). -/
structure Table (α : Type) where
  /-- Entry of symbol 0 first. -/
  entries : List α
  /-- There are exactly 256 entries. -/
  size_eq : entries.length = 256
deriving DecidableEq, Repr

/-- The table whose entries are all `v`. -/
def Table.fill {α : Type} (v : α) : Table α := ⟨List.replicate 256 v, List.length_replicate⟩

/-- An entry of `TCODE` or `CODE` (10_state.md R39): the code of a symbol is the `len`-bit string that
writes `bits` most significant bit first; `len = 0` means the symbol has no code. -/
structure CodeEntry where
  len : BitVec 8
  bits : Nat
deriving DecidableEq, Repr

/-- The kind of a node of the arena (10_state.md R41). -/
inductive NodeKind where
  | leaf
  | internal
deriving DecidableEq, Repr, Inhabited

/-- An entry of the node arena `NODE` (10_state.md R41). -/
structure Node where
  kind : NodeKind
  sym : BitVec 8
  freq : BitVec 64
  key : BitVec 8
  left : BitVec 10
  right : BitVec 10
deriving DecidableEq, Repr, Inhabited

/-- An entry of the token table `TOK` (10_state.md R42, 42_lz77.md R130). -/
structure Token where
  offset : BitVec 16
  length : BitVec 16
  next : BitVec 8
deriving DecidableEq, Repr, Inhabited

end Sys2Proof
end

