-- ==== Sys2Proof/Config.lean ====
section
/-! DEFINITION. The implementation parameters of 00_scope.md section 4 and the free values of
93_implementation_defined.md. -/

namespace Sys2Proof

/-- The OPEN parameters of the block (00_scope.md section 4, 92_eei_decisions.md D4). The machine carries
them as data, so that every claim about all states is a claim about all capacities (log entry 3). -/
structure Config where
  /-- `BUF_CAP`: the capacity in bytes of each of `SRC`, `DST`, `BSW`. -/
  bufCap : Nat
  /-- `TOK_CAP`: the capacity in tokens of `TOK`. -/
  tokCap : Nat
deriving DecidableEq, Repr

namespace Config

/-- The constraint the spec puts on both parameters (00_scope.md section 4). -/
abbrev Valid (c : Config) : Prop :=
  (1 ≤ c.bufCap ∧ c.bufCap < 2 ^ 60) ∧ (1 ≤ c.tokCap ∧ c.tokCap < 2 ^ 60)

/-- DESIGN CHOICE (log entry 3), unsafe: the capacities of the state `State.reset`. Only the constant
`State.reset` uses it; `SYS.RESET` and the hardware reset keep the machine's own capacities. -/
def chosen : Config := { bufCap := 2 ^ 20, tokCap := 2 ^ 20 }

/-- `NODE_CAP`: entries of the node arena (00_scope.md section 4). -/
def nodeCap : Nat := 511

/-- `CRC_POLY`: the reflected polynomial (00_scope.md section 4). -/
def crcPoly : BitVec 32 := 0xEDB88320#32

/-- The initial value and the final XOR of the CRC (41_crc32.md R121; 93_implementation_defined.md G2). -/
def crcInit : BitVec 32 := 0xFFFFFFFF#32

/-- The absent arena index `NONE` (10_state.md R33). -/
def none10 : BitVec 10 := 0x3FF#10

/-- FREE VALUE (log entry 4), safe: an unspecified byte of buffer space `space` at `index`, as the move with
number `draw` finds it (93_implementation_defined.md I1: any value). -/
opaque freeByte (draw space index : Nat) : Byte

/-- FREE VALUE (log entry 4), safe: an unspecified entry of `TOK`. -/
opaque freeToken (draw index : Nat) : Token

/-- FREE VALUE (log entry 4), safe: an unspecified entry of `NODE`. -/
opaque freeNode (draw index : Nat) : Node

/-- FREE VALUE (log entry 14), safe: the content of `ERRINFO` when the detail of the error is a number that
does not fit its 64 bits. -/
opaque freeInfo (draw info : Nat) : Reg

end Config

end Sys2Proof
end

