-- ==== Sys2Proof/Syntax.lean ====
section
/-! DEFINITION. The command set: one constructor per row of spec/opcode_table.json (30_encoding.md R71). -/

namespace Sys2Proof

/-- A command with its operand as an unsigned number (30_encoding.md R72). -/
inductive Instr where
  /-- `SYS.NOP`, 45_system.md R220. -/
  | sysNop
  /-- `SYS.CLRERR`, 45_system.md R221. -/
  | sysClrerr
  /-- `SYS.RESET`, 45_system.md R222. -/
  | sysReset
  /-- `BUF.SWAP`, 45_system.md R223. -/
  | bufSwap
  /-- `BS.WINIT`, 40_bitstream.md R101. -/
  | bsWinit
  /-- `BS.WBIT b`, 40_bitstream.md R102. -/
  | bsWbit (b : Nat)
  /-- `BS.WBITS n`, 40_bitstream.md R103. -/
  | bsWbits (n : Nat)
  /-- `BS.FLUSH`, 40_bitstream.md R104. -/
  | bsFlush
  /-- `BS.RINIT sel`, 40_bitstream.md R106. -/
  | bsRinit (sel : Nat)
  /-- `BS.RBIT`, 40_bitstream.md R107. -/
  | bsRbit
  /-- `BS.RBITS n`, 40_bitstream.md R108. -/
  | bsRbits (n : Nat)
  /-- `CRC.CALC sel`, 41_crc32.md R122. -/
  | crcCalc (sel : Nat)
  /-- `LZ.COMP`, 42_lz77.md R134. -/
  | lzComp
  /-- `LZ.DECOMP`, 42_lz77.md R136. -/
  | lzDecomp
  /-- `LZ.T2B`, 42_lz77.md R138. -/
  | lzT2b
  /-- `LZ.B2T`, 42_lz77.md R140. -/
  | lzB2t
  /-- `HUF.FREQ`, 43_huffman.md R151. -/
  | hufFreq
  /-- `HUF.BUILD`, 43_huffman.md R155. -/
  | hufBuild
  /-- `HUF.CODES`, 43_huffman.md R157. -/
  | hufCodes
  /-- `HUF.LENS`, 43_huffman.md R159. -/
  | hufLens
  /-- `HUF.CANON`, 43_huffman.md R162. -/
  | hufCanon
  /-- `HUF.ENC`, 43_huffman.md R164. -/
  | hufEnc
  /-- `HUF.DEC`, 43_huffman.md R166. -/
  | hufDec
  /-- `FRM.ENC.PLAIN`, 44_frame.md R183. -/
  | frmEncPlain
  /-- `FRM.ENC.HYB`, 44_frame.md R184. -/
  | frmEncHyb
  /-- `FRM.ENC.PAR`, 44_frame.md R185. -/
  | frmEncPar
  /-- `FRM.ENC.STOR`, 44_frame.md R186. -/
  | frmEncStor
  /-- `FRM.DEC`, 44_frame.md R189. -/
  | frmDec
  /-- `FRM.SNIFF`, 44_frame.md R188. -/
  | frmSniff
deriving DecidableEq, Repr

end Sys2Proof
end

