-- ==== Sys2Proof/WellFormed.lean ====
section
/-! DEFINITION. Which commands have an encoding: the operand fits its field (30_encoding.md R72). -/

namespace Sys2Proof

/-- The operand fits the bits the encoding gives it: `b = imm[0]`, `n = imm[6:0]`, `sel = imm[1:0]`
(30_encoding.md R72). `n` in 65..127 and `sel = 3` are encodable and raise `InvalidInput` when executed. -/
def Instr.wf : Instr → Bool
  | .bsWbit b => decide (b < 2)
  | .bsWbits n => decide (n < 128)
  | .bsRbits n => decide (n < 128)
  | .bsRinit sel => decide (sel < 4)
  | .crcCalc sel => decide (sel < 4)
  | .sysNop => true
  | .sysClrerr => true
  | .sysReset => true
  | .bufSwap => true
  | .bsWinit => true
  | .bsFlush => true
  | .bsRbit => true
  | .lzComp => true
  | .lzDecomp => true
  | .lzT2b => true
  | .lzB2t => true
  | .hufFreq => true
  | .hufBuild => true
  | .hufCodes => true
  | .hufLens => true
  | .hufCanon => true
  | .hufEnc => true
  | .hufDec => true
  | .frmEncPlain => true
  | .frmEncHyb => true
  | .frmEncPar => true
  | .frmEncStor => true
  | .frmDec => true
  | .frmSniff => true

end Sys2Proof
end

