-- ==== Sys2Proof/Decode.lean ====
section
/-! DEFINITION. Decoding and encoding of command words (30_encoding.md R70 to R73). -/

namespace Sys2Proof

/-- Why a word is illegal (30_encoding.md R73). Every one of them raises `IllegalCommand(0)`
(60_exceptions.md R240). -/
inductive IllegalWord where
  /-- Bits 23:8 are not zero. -/
  | nonzeroZ
  /-- The opcode is in no row of R71. -/
  | unknownOpcode
  /-- A must-be-zero bit of `imm` is 1. -/
  | nonzeroImm
deriving DecidableEq, Repr

/-- Field `op`, bits 31:24 (30_encoding.md R70). -/
def opField (w : Word) : BitVec 8 := w.extractLsb' 24 8

/-- Field `z`, bits 23:8 (30_encoding.md R70). -/
def zField (w : Word) : BitVec 16 := w.extractLsb' 8 16

/-- Field `imm`, bits 7:0 (30_encoding.md R70). -/
def immField (w : Word) : BitVec 8 := w.extractLsb' 0 8

/-- A command without an operand requires `imm` to be zero (30_encoding.md R70). -/
def noOperand (i : Instr) (imm : Nat) : Except IllegalWord Instr :=
  if imm = 0 then .ok i else .error .nonzeroImm

/-- A command whose operand is the low `bits` bits of `imm`; the bits above must be zero
(30_encoding.md R72). -/
def withOperand (bits : Nat) (f : Nat → Instr) (imm : Nat) : Except IllegalWord Instr :=
  if imm < 2 ^ bits then .ok (f imm) else .error .nonzeroImm

/-- The variant of `FRM.ENC.*` is `imm[1:0]`; `imm[7:2]` must be zero (30_encoding.md R71, R72). -/
def frameVariant : Nat → Except IllegalWord Instr
  | 0 => .ok .frmEncPlain
  | 1 => .ok .frmEncHyb
  | 2 => .ok .frmEncPar
  | 3 => .ok .frmEncStor
  | _ => .error .nonzeroImm

/-- The opcode map (30_encoding.md R71). -/
def decodeOp (op imm : Nat) : Except IllegalWord Instr :=
  match op with
  | 0x00 => noOperand .sysNop imm
  | 0x01 => noOperand .sysClrerr imm
  | 0x02 => noOperand .sysReset imm
  | 0x03 => noOperand .bufSwap imm
  | 0x10 => noOperand .bsWinit imm
  | 0x11 => withOperand 1 .bsWbit imm
  | 0x12 => withOperand 7 .bsWbits imm
  | 0x13 => noOperand .bsFlush imm
  | 0x14 => withOperand 2 .bsRinit imm
  | 0x15 => noOperand .bsRbit imm
  | 0x16 => withOperand 7 .bsRbits imm
  | 0x20 => withOperand 2 .crcCalc imm
  | 0x30 => noOperand .lzComp imm
  | 0x31 => noOperand .lzDecomp imm
  | 0x32 => noOperand .lzT2b imm
  | 0x33 => noOperand .lzB2t imm
  | 0x40 => noOperand .hufFreq imm
  | 0x41 => noOperand .hufBuild imm
  | 0x42 => noOperand .hufCodes imm
  | 0x43 => noOperand .hufLens imm
  | 0x44 => noOperand .hufCanon imm
  | 0x45 => noOperand .hufEnc imm
  | 0x46 => noOperand .hufDec imm
  | 0x50 => frameVariant imm
  | 0x51 => noOperand .frmDec imm
  | 0x52 => noOperand .frmSniff imm
  | _ => .error .unknownOpcode

/-- The command a word stands for, or why it is illegal (30_encoding.md R71 to R73). Total on all words. -/
def decode (w : Word) : Except IllegalWord Instr :=
  if zField w = 0 then decodeOp (opField w).toNat (immField w).toNat else .error .nonzeroZ

/-- The opcode of a command (30_encoding.md R71). -/
def opcode : Instr → BitVec 8
  | .sysNop => 0x00#8
  | .sysClrerr => 0x01#8
  | .sysReset => 0x02#8
  | .bufSwap => 0x03#8
  | .bsWinit => 0x10#8
  | .bsWbit _ => 0x11#8
  | .bsWbits _ => 0x12#8
  | .bsFlush => 0x13#8
  | .bsRinit _ => 0x14#8
  | .bsRbit => 0x15#8
  | .bsRbits _ => 0x16#8
  | .crcCalc _ => 0x20#8
  | .lzComp => 0x30#8
  | .lzDecomp => 0x31#8
  | .lzT2b => 0x32#8
  | .lzB2t => 0x33#8
  | .hufFreq => 0x40#8
  | .hufBuild => 0x41#8
  | .hufCodes => 0x42#8
  | .hufLens => 0x43#8
  | .hufCanon => 0x44#8
  | .hufEnc => 0x45#8
  | .hufDec => 0x46#8
  | .frmEncPlain => 0x50#8
  | .frmEncHyb => 0x50#8
  | .frmEncPar => 0x50#8
  | .frmEncStor => 0x50#8
  | .frmDec => 0x51#8
  | .frmSniff => 0x52#8

/-- The immediate of a command: its operand or variant, zero where it has none (30_encoding.md R71, R72). -/
def immediate : Instr → Nat
  | .bsWbit b => b
  | .bsWbits n => n
  | .bsRbits n => n
  | .bsRinit sel => sel
  | .crcCalc sel => sel
  | .frmEncHyb => 1
  | .frmEncPar => 2
  | .frmEncStor => 3
  | .sysNop => 0
  | .sysClrerr => 0
  | .sysReset => 0
  | .bufSwap => 0
  | .bsWinit => 0
  | .bsFlush => 0
  | .bsRbit => 0
  | .lzComp => 0
  | .lzDecomp => 0
  | .lzT2b => 0
  | .lzB2t => 0
  | .hufFreq => 0
  | .hufBuild => 0
  | .hufCodes => 0
  | .hufLens => 0
  | .hufCanon => 0
  | .hufEnc => 0
  | .hufDec => 0
  | .frmEncPlain => 0
  | .frmDec => 0
  | .frmSniff => 0

/-- The word of a well-formed command: `op`, sixteen zero bits, `imm` (30_encoding.md R70). -/
def encode (i : Instr) : Word := opcode i ++ 0#16 ++ BitVec.ofNat 8 (immediate i)

/-- What the decoder reads from an instruction of `nbits` bits whose bits are `w`. A command is one 32-bit
word, never stored in bytes, so the bits are the word's. -/
def decodeTableWord (nbits w : Nat) : Option Instr :=
  match decode (BitVec.ofNat 32 (w % 2 ^ nbits)) with
  | .ok i => some i
  | .error _ => none

end Sys2Proof
end

