-- ==== Sys2Proof/Machine/State.lean ====
section
/-! DEFINITION. The architectural state of HCB-1 (10_state.md) as plain data, its reset value, and the
outcomes that are not a next state. -/

namespace Sys2Proof.Machine

/-- The block has no fatal, lock-up or stopping state (60_exceptions.md R238): errors are the sticky
registers `ERR`, `ERRINFO`, `ERRCMD`. So no step ends in a fault and the type has no constructor. -/
inductive Fault where
deriving DecidableEq, Repr

/-- Why a step has no meaning. -/
inductive Refusal where
  /-- Raised by an arm of `exec` whose command has no meaning yet (safe). No arm of this model raises it. -/
  | notModelled (mnemonic : String)
deriving DecidableEq, Repr

/-- The error kinds of 60_exceptions.md R231. -/
inductive ErrorKind where
  | streamExhausted
  | corruptToken
  | invalidMagic
  | corruptHeader
  | checksumMismatch
  | decompressionFailed
  | compressionFailed
  | invalidInput
  | memoryError
  | illegalCommand
deriving DecidableEq, Repr

/-- `raise E(info)`: an error with its detail, a natural number (00_scope.md section 6). -/
structure CmdError where
  kind : ErrorKind
  info : Nat
deriving DecidableEq, Repr

/-- A sparse store: index and entry pairs, indices strictly rising. An index that is not listed holds an
unspecified entry. -/
abbrev Sparse (α : Type) := List (Nat × α)

/-- A byte buffer (10_state.md R34 to R36): the cells whose content is specified, addresses strictly rising. -/
abbrev Memory := List Host.Cell

/-- What one host access moves: a register, byte, frequency or length is a word; an entry of `TCODE`,
`CODE`, `NODE` or `TOK` is moved whole (20_memory.md R54). -/
inductive HostValue where
  | word (v : Reg)
  | code (c : CodeEntry)
  | node (n : Node)
  | token (t : Token)
deriving DecidableEq, Repr

/-- What the outside world does to the block, each between two commands. -/
inductive Input where
  /-- `HostRead(space, index)` (20_memory.md R55). -/
  | read (space index : Nat)
  /-- `HostWrite(space, index, value)` (20_memory.md R56, R57). -/
  | write (space index : Nat) (value : HostValue)
  /-- The hardware reset input (70_reset_and_hazards.md R260). -/
  | hardReset
deriving DecidableEq, Repr

/-- The state (10_state.md R10): registers, buffers, tables; and the model's own fields `cap`, `inputs`,
`answer`, `draws`. -/
structure State where
  /-- The parameters `BUF_CAP`, `TOK_CAP`; no step changes them (log entry 3). -/
  cap : Config
  /-- `ERR`, 10_state.md R17. -/
  err : BitVec 8
  /-- `ERRINFO`, 10_state.md R18. -/
  errInfo : BitVec 64
  /-- `ERRCMD`, 10_state.md R19. -/
  errCmd : BitVec 32
  /-- `CTL`, 10_state.md R20: its one bit is `BOUND` (R21). -/
  ctl : BitVec 1
  /-- `ARG0`, 10_state.md R13. -/
  arg0 : BitVec 64
  /-- `RES`, 10_state.md R14. -/
  res : BitVec 64
  /-- `WINDOW`, 10_state.md R22. -/
  window : BitVec 16
  /-- `LOOKAHEAD`, 10_state.md R23. -/
  lookahead : BitVec 16
  /-- `SYMCNT`, 10_state.md R24. -/
  symCnt : BitVec 64
  /-- `ORIGLEN`, 10_state.md R25. -/
  origLen : BitVec 64
  /-- `CHUNKSZ`, 10_state.md R26. -/
  chunkSz : BitVec 64
  /-- `SRC_LEN`, 10_state.md R27. -/
  srcLen : BitVec 64
  /-- `DST_LEN`, 10_state.md R28. -/
  dstLen : BitVec 64
  /-- `CRCR`, 10_state.md R29. -/
  crcr : BitVec 32
  /-- `W_LEN`, 10_state.md R30. -/
  wLen : BitVec 64
  /-- `W_ACC`, 10_state.md R30. -/
  wAcc : BitVec 8
  /-- `W_N`, 10_state.md R30. -/
  wN : BitVec 3
  /-- `R_SEL`, 10_state.md R31. -/
  rSel : BitVec 2
  /-- `R_BYTE`, 10_state.md R31. -/
  rByte : BitVec 64
  /-- `R_BIT`, 10_state.md R31. -/
  rBit : BitVec 3
  /-- `TOK_CNT`, 10_state.md R32. -/
  tokCnt : BitVec 64
  /-- `NODE_CNT`, 10_state.md R33. -/
  nodeCnt : BitVec 10
  /-- `ROOT`, 10_state.md R33. -/
  root : BitVec 10
  /-- Buffer `SRC`, 10_state.md R34. -/
  src : Memory
  /-- Buffer `DST`, 10_state.md R35. -/
  dst : Memory
  /-- Buffer `BSW`, 10_state.md R36. -/
  bsw : Memory
  /-- Table `FREQ`, 10_state.md R37. -/
  freq : Table (BitVec 64)
  /-- Table `LEN`, 10_state.md R38. -/
  len : Table (BitVec 8)
  /-- Table `TCODE`, 10_state.md R39. -/
  tcode : Table CodeEntry
  /-- Table `CODE`, 10_state.md R40. -/
  code : Table CodeEntry
  /-- Arena `NODE`, 10_state.md R41. -/
  node : Sparse Node
  /-- Table `TOK`, 10_state.md R42. -/
  tok : Sparse Token
  /-- The moves the port is still to accept, oldest first (20_memory.md R58; log entry 1). -/
  inputs : List Input
  /-- What the port returned for the last `HostRead` (log entry 7). -/
  answer : HostValue
  /-- The number of moves accepted so far, at which the free values are drawn (log entry 4). -/
  draws : Nat
deriving DecidableEq, Repr

/-- The reset state of a block with capacities `c` (10_state.md R44 and section 2), with nothing for the
port to accept. The values of `inputs`, `answer` and `draws` are DESIGN CHOICE (log entries 1, 7, 4). -/
def State.resetWith (c : Config) : State where
  cap := c
  err := 0#8
  errInfo := 0#64
  errCmd := 0#32
  ctl := 1#1
  arg0 := 0#64
  res := 0#64
  window := 0#16
  lookahead := 0#16
  symCnt := 0#64
  origLen := 0#64
  chunkSz := 0#64
  srcLen := 0#64
  dstLen := 0#64
  crcr := 0#32
  wLen := 0#64
  wAcc := 0#8
  wN := 0#3
  rSel := 0#2
  rByte := 0#64
  rBit := 0#3
  tokCnt := 0#64
  nodeCnt := 0#10
  root := 0x3FF#10
  src := []
  dst := []
  bsw := []
  freq := Table.fill 0#64
  len := Table.fill 0#8
  tcode := Table.fill ⟨0#8, 0⟩
  code := Table.fill ⟨0#8, 0⟩
  node := []
  tok := []
  inputs := []
  answer := .word 0#64
  draws := 0

/-- The machine right after reset (10_state.md R44), with the capacities `Config.chosen` (DESIGN CHOICE, log
entry 3). -/
def State.reset : State := State.resetWith Config.chosen

end Sys2Proof.Machine
end

