-- ==== Sys2Proof/Machine/Memory.lean ====
section
/-! DEFINITION. The operations on sparse stores (byte buffers, `TOK`, `NODE`) and on 256-entry tables. -/

namespace Sys2Proof.Machine

/-- The listed entry at index `a`. -/
def Sparse.get? {α : Type} : Sparse α → Nat → Option α
  | [], _ => none
  | (b, v) :: m, a => if b = a then some v else Sparse.get? m a

/-- Store `v` at index `a`, keeping the indices strictly rising. -/
def Sparse.put {α : Type} : Sparse α → Nat → α → Sparse α
  | [], a, v => [(a, v)]
  | (b, w) :: m, a, v =>
    if a < b then (a, v) :: (b, w) :: m
    else if a = b then (a, v) :: m
    else (b, w) :: Sparse.put m a v

/-- The entries `xs` at the indices `i`, `i + 1`, and so on. -/
def Sparse.listFrom {α : Type} : Nat → List α → Sparse α
  | _, [] => []
  | i, x :: xs => (i, x) :: Sparse.listFrom (i + 1) xs

/-- The entries `xs` from index 0, and nothing else. -/
def Sparse.ofList {α : Type} (xs : List α) : Sparse α := Sparse.listFrom 0 xs

/-- `m` with the entries `xs` written from index 0; the entries at or beyond `xs.length` stay. -/
def Sparse.overwrite {α : Type} (xs : List α) (m : Sparse α) : Sparse α :=
  Sparse.ofList xs ++ m.filter fun p => decide (xs.length ≤ p.1)

/-- The canonical form: indices strictly rising. (An index that is not listed holds an unspecified entry, so
no listed entry can equal what an unlisted index reads as.) -/
def Sparse.rising {α : Type} : Sparse α → Bool
  | [] => true
  | [_] => true
  | p :: q :: m => decide (p.1 < q.1) && Sparse.rising (q :: m)

/-- The canonical form of a byte buffer. -/
def Memory.wf (m : Memory) : Bool := Sparse.rising (α := Byte) m

/-- All 256 symbols, ascending. -/
def allSymbols : List Byte := (List.range 256).map (BitVec.ofNat 8)

end Sys2Proof.Machine

namespace Sys2Proof

/-- Entry `s` of a table. -/
def Table.get {α : Type} (t : Table α) (s : Byte) : α :=
  t.entries[s.toNat]'(Nat.lt_of_lt_of_eq s.isLt t.size_eq.symm)

/-- `t` with entry `s` set to `v`. -/
def Table.put {α : Type} (t : Table α) (s : Byte) (v : α) : Table α :=
  ⟨t.entries.set s.toNat v, (List.length_set).trans t.size_eq⟩

/-- The table whose entry `s` is `f s`. -/
def Table.ofFn {α : Type} (f : Byte → α) : Table α :=
  ⟨Machine.allSymbols.map f, by simp [Machine.allSymbols]⟩

end Sys2Proof
end

