-- ==== Sys2Proof/Machine/Ops.lean ====
section
/-! DEFINITION. The shared operations: running a command, taking an error and acknowledging it
(60_exceptions.md), resetting the block, and the writes several commands share. -/

namespace Sys2Proof.Machine

/-- The number of an error kind (60_exceptions.md R231). -/
def errorCode : ErrorKind → BitVec 8
  | .streamExhausted => 1#8
  | .corruptToken => 2#8
  | .invalidMagic => 3#8
  | .corruptHeader => 4#8
  | .checksumMismatch => 5#8
  | .decompressionFailed => 6#8
  | .compressionFailed => 7#8
  | .invalidInput => 8#8
  | .memoryError => 9#8
  | .illegalCommand => 10#8

/-- The 64-bit detail `info` of an error. Where the number does not fit 64 bits the spec states no value:
FREE VALUE (log entry 14). -/
def errorInfo (draw info : Nat) : BitVec 64 :=
  if info < 2 ^ 64 then BitVec.ofNat 64 info else Config.freeInfo draw info

/-- Taking an error (60_exceptions.md R233, step 3): `ERR`, `ERRINFO` and `ERRCMD` are written, nothing else.
`s` is the state with what survives the failing command (R234), `w` the command word. -/
def takeError (w : Word) (e : CmdError) (s : State) : State :=
  { s with err := errorCode e.kind, errInfo := errorInfo s.draws e.info, errCmd := w }

/-- Acknowledging the pending error, the only return (60_exceptions.md R237, 45_system.md R221). -/
def clearError (s : State) : State := { s with err := 0#8, errInfo := 0#64, errCmd := 0#32 }

/-- The reset state of the block (10_state.md R44), entered by `SYS.RESET` and by the hardware reset
(70_reset_and_hazards.md R260). The model's own fields stay: the capacities, the moves still to come, the
last answer and the draw counter (log entry 18). -/
def resetBlock (s : State) : State :=
  { State.resetWith s.cap with inputs := s.inputs, answer := s.answer, draws := s.draws }

/-- How the pseudocode of a command ends: in a new state, or in `raise E(info)`, with the state holding what
survives (60_exceptions.md R233, R234). -/
inductive Ran where
  | done (s : State)
  | raised (e : CmdError) (s : State)
deriving DecidableEq, Repr

/-- The state after command word `w` whose pseudocode is `body` (60_exceptions.md R233, `execute`). While an
error is pending nothing happens (R236). -/
def commandState (w : Word) (s : State) (body : State → Ran) : State :=
  if s.err ≠ 0#8 then s
  else match body s with
    | .done t => t
    | .raised e t => takeError w e t

/-- Executing a command: every command answers a next state (60_exceptions.md R238). -/
def command (w : Word) (s : State) (body : State → Ran) : Host.Outcome State Fault Refusal :=
  .next (commandState w s body)

/-- An illegal word (60_exceptions.md R240): `IllegalCommand(0)`, nothing else changes; refused like any
other word while an error is pending (R236). -/
def illegalCommand (w : Word) (s : State) : Host.Outcome State Fault Refusal :=
  command w s fun s => .raised ⟨.illegalCommand, 0⟩ s

/-- `DST` and `DST_LEN` hold the output `out`, which replaces the whole content (10_state.md R35). Bytes at
or beyond the new length become unspecified (log entry 6). -/
def putDst (out : List Byte) (s : State) : State :=
  { s with dst := Sparse.ofList out, dstLen := BitVec.ofNat 64 out.length }

/-- What every failing command that produces `DST` leaves: `DST_LEN = 0`, the bytes unspecified
(60_exceptions.md R234). -/
def failDst (s : State) : State := { s with dst := [], dstLen := 0#64 }

/-- The writer made empty (40_bitstream.md R101); the bytes of `BSW` become unspecified. -/
def clearWriter (s : State) : State := { s with bsw := [], wLen := 0#64, wAcc := 0#8, wN := 0#3 }

/-- The reader's cursor moved (40_bitstream.md R105). -/
def setCursor (byte : BitVec 64) (bit : BitVec 3) (s : State) : State :=
  { s with rByte := byte, rBit := bit }

/-- The result register written (10_state.md R14). -/
def setRes (v : BitVec 64) (s : State) : State := { s with res := v }

/-- The tokens `toks` in `TOK` from entry 0 and their number in `TOK_CNT` (42_lz77.md R134, R140). -/
def putTokens (toks : List Token) (s : State) : State :=
  { s with tok := Sparse.overwrite toks s.tok, tokCnt := BitVec.ofNat 64 toks.length }

/-- What a failing token producer leaves: `TOK_CNT = 0`, the entries unspecified (60_exceptions.md R234). -/
def failTokens (s : State) : State := { s with tok := [], tokCnt := 0#64 }

/-- A command that produces `DST`: the output is stored, or on an error `DST` is emptied
(60_exceptions.md R234). -/
def produceDst (s : State) : Except CmdError (List Byte) → Ran
  | .ok out => .done (putDst out s)
  | .error e => .raised e (failDst s)

end Sys2Proof.Machine
end

