-- ==== Sys2Proof/Machine/Operands.lean ====
section
/-! DEFINITION. The operand forms: buffer selectors, the bytes of a buffer, the tokens and nodes a command
reads, byte order and bit order (20_memory.md R51, R52, R62; 30_encoding.md R72). -/

namespace Sys2Proof.Machine

/-- A buffer selector (10_state.md R31): 0 `SRC`, 1 `DST`, 2 `BSW`. -/
inductive Buffer where
  | src
  | dst
  | bsw
deriving DecidableEq, Repr

/-- The buffer a selector names; 3 names none (30_encoding.md R72). -/
def bufferOf : Nat → Option Buffer
  | 0 => some .src
  | 1 => some .dst
  | 2 => some .bsw
  | _ => none

/-- The address space of a buffer (20_memory.md R50). -/
def Buffer.space : Buffer → Nat
  | .src => 1
  | .dst => 2
  | .bsw => 3

/-- `len(buf)` (00_scope.md section 6): `SRC_LEN`, `DST_LEN` or `W_LEN`. -/
def bufferLen (s : State) : Buffer → Nat
  | .src => s.srcLen.toNat
  | .dst => s.dstLen.toNat
  | .bsw => s.wLen.toNat

/-- The cells of a buffer. -/
def bufferCells (s : State) : Buffer → Memory
  | .src => s.src
  | .dst => s.dst
  | .bsw => s.bsw

/-- Byte `a` of a buffer. An address that is not listed holds an unspecified byte and reads as a FREE VALUE
(93_implementation_defined.md I1; log entry 4). This is what every read of a buffer byte goes through. -/
def bufferByte (s : State) (b : Buffer) (a : Nat) : Byte :=
  (Sparse.get? (bufferCells s b) a).getD (Config.freeByte s.draws b.space a)

/-- `MemRead(buf, 0, len(buf))`: the bytes a command that consumes a buffer reads (20_memory.md R62 (a)). -/
def bufferBytes (s : State) (b : Buffer) : List Byte :=
  (List.range (bufferLen s b)).map (bufferByte s b)

/-- Entry `i` of `TOK`; an entry that is not listed is unspecified and reads as a FREE VALUE (log entry 4). -/
def tokenAt (s : State) (i : Nat) : Token :=
  (Sparse.get? s.tok i).getD (Config.freeToken s.draws i)

/-- Entry `i` of `NODE`; an entry that is not listed is unspecified and reads as a FREE VALUE (log entry 4). -/
def nodeAt (s : State) (i : Nat) : Node :=
  (Sparse.get? s.node i).getD (Config.freeNode s.draws i)

/-- `NODE[0 .. NODE_CNT-1]` (43_huffman.md R157). -/
def arenaOf (s : State) : List Node := (List.range s.nodeCnt.toNat).map (nodeAt s)

/-- The bytes of `SRC`, after the check of 10_state.md R27. -/
def sourceBytes (s : State) : Except CmdError (List Byte) :=
  if s.cap.bufCap < s.srcLen.toNat then .error ⟨.invalidInput, s.srcLen.toNat⟩
  else .ok (bufferBytes s .src)

/-- The tokens of `TOK`, after the check of 10_state.md R32. -/
def tokenList (s : State) : Except CmdError (List Token) :=
  if s.cap.tokCap < s.tokCnt.toNat then .error ⟨.invalidInput, s.tokCnt.toNat⟩
  else .ok ((List.range s.tokCnt.toNat).map (tokenAt s))

/-- `CTL.BOUND = 1` (10_state.md R21): bounded mode. -/
def bounded (s : State) : Bool := s.ctl == 1#1

/-- The `n` bytes of `v`, least significant first: `le32` and `le64` for `n` 4 and 8 (00_scope.md section 6). -/
def toLe (n v : Nat) : List Byte := (List.range n).map fun i => BitVec.ofNat 8 (v / 2 ^ (8 * i))

/-- The number whose bytes, least significant first, are given: `from_le32`, `from_le64`. -/
def fromLe : List Byte → Nat
  | [] => 0
  | b :: bs => b.toNat + 256 * fromLe bs

/-- `be16(v)`: the two bytes of `v`, most significant first (00_scope.md section 6). -/
def be16 (v : BitVec 16) : List Byte := [v.extractLsb' 8 8, v.extractLsb' 0 8]

/-- The 16-bit number whose bytes are `hi`, `lo` (42_lz77.md R139). -/
def fromBe16 (hi lo : Byte) : BitVec 16 := hi ++ lo

/-- The `n` low bits of `v`, bit `n - 1` first (20_memory.md R51). -/
def bitsMsb (n v : Nat) : List Bool := (List.range n).map fun i => v.testBit (n - 1 - i)

/-- The bits of a byte in stream order: bit 7 first (20_memory.md R51). -/
def bitsOfByte (x : Byte) : List Bool := bitsMsb 8 x.toNat

/-- The bits of a byte sequence in stream order (20_memory.md R51). -/
def bitsOf (bytes : List Byte) : List Bool := bytes.flatMap bitsOfByte

end Sys2Proof.Machine
end

