-- ==== Sys2Proof/Machine/Flags.lean ====
section
/-! DEFINITION. The flags of the block: the bits of the `STATUS` view (10_state.md R16). -/

namespace Sys2Proof.Machine

/-- Bit 0, `ERRV`: an error is pending. -/
def errv (s : State) : Bool := s.err != 0#8

/-- Bit 1, `TREE`: a tree is present. -/
def treeFlag (s : State) : Bool := s.root != Config.none10

/-- Bit 2, `WPEND`: the writer holds a partial byte. -/
def wpend (s : State) : Bool := s.wN != 0#3

/-- The length of the buffer the reader borrows (10_state.md R31). `R_SEL = 3` never occurs; the model gives
it length 0 (log entry 11). -/
def readerLen (s : State) : Nat :=
  match bufferOf s.rSel.toNat with
  | some b => bufferLen s b
  | none => 0

/-- Bit 3, `REXH`: the reader is exhausted. -/
def rexh (s : State) : Bool := decide (readerLen s ≤ s.rByte.toNat)

/-- The `STATUS` view (10_state.md R16); bits 63:4 read 0. -/
def status (s : State) : BitVec 64 :=
  BitVec.ofNat 64 ((errv s).toNat + 2 * (treeFlag s).toNat + 4 * (wpend s).toNat + 8 * (rexh s).toNat)

end Sys2Proof.Machine
end

