-- ==== Sys2Proof/Machine/Crc.lean ====
section
/-! DEFINITION. The CRC-32 engine (41_crc32.md). -/

namespace Sys2Proof.Machine

/-- One step of the reflected division (41_crc32.md R120). -/
def crcStep (c : BitVec 32) : BitVec 32 :=
  if c.getLsbD 0 then (c >>> 1) ^^^ Config.crcPoly else c >>> 1

/-- `n` steps. -/
def crcSteps : Nat → BitVec 32 → BitVec 32
  | 0, c => c
  | n + 1, c => crcSteps n (crcStep c)

/-- The table `T[i]` (41_crc32.md R120). -/
def crcTable (i : Byte) : BitVec 32 := crcSteps 8 (i.setWidth 32)

/-- The register after one more byte (41_crc32.md R121). -/
def crcUpdate (c : BitVec 32) (x : Byte) : BitVec 32 :=
  crcTable ((c ^^^ x.setWidth 32).extractLsb' 0 8) ^^^ (c >>> 8)

/-- `crc32(bytes)` (41_crc32.md R121). -/
def crc32 (bytes : List Byte) : BitVec 32 := bytes.foldl crcUpdate Config.crcInit ^^^ Config.crcInit

/-- `CRC.CALC sel` (41_crc32.md R122). -/
def execCrcCalc (sel : Nat) (s : State) : Host.Outcome State Fault Refusal :=
  command (encode (.crcCalc sel)) s fun s =>
    match bufferOf sel with
    | none => .raised ⟨.invalidInput, sel⟩ s
    | some b =>
      if b = .src ∧ s.cap.bufCap < s.srcLen.toNat then .raised ⟨.invalidInput, s.srcLen.toNat⟩ s
      else
        let c := crc32 (bufferBytes s b)
        .done { s with crcr := c, res := c.setWidth 64 }

end Sys2Proof.Machine
end

