-- ==== Sys2Proof/Machine/BitStream.lean ====
section
/-! DEFINITION. The BitStream writer and reader commands (40_bitstream.md). -/

namespace Sys2Proof.Machine

/-! ### The writer -/

/-- `W_ACC` is appended to `BSW` and the partial byte emptied, after the capacity check; `acc` is the byte to
append (40_bitstream.md R100). -/
def appendByteToWriter (acc : BitVec 8) (s : State) : Except CmdError State :=
  if s.cap.bufCap ≤ s.wLen.toNat then .error ⟨.memoryError, s.wLen.toNat⟩
  else .ok { s with bsw := Sparse.put s.bsw s.wLen.toNat acc, wLen := s.wLen + 1#64, wAcc := 0#8, wN := 0#3 }

/-- The partial byte with bit `b` added at stream position `W_N` (40_bitstream.md R100). -/
def accWith (s : State) (b : Bool) : BitVec 8 :=
  s.wAcc ||| (BitVec.ofNat 8 b.toNat <<< (7 - s.wN.toNat))

/-- `write_bit(b)` (40_bitstream.md R100). -/
def writeBit (s : State) (b : Bool) : Except CmdError State :=
  if s.wN = 7#3 then appendByteToWriter (accWith s b) s
  else .ok { s with wAcc := accWith s b, wN := s.wN + 1#3 }

/-- `write_bit` for each bit in order. -/
def writeBits (s : State) : List Bool → Except CmdError State
  | [] => .ok s
  | b :: bs => match writeBit s b with
    | .ok t => writeBits t bs
    | .error e => .error e

/-- `flush()` (40_bitstream.md R100). -/
def flushWriter (s : State) : Except CmdError State :=
  if s.wN = 0#3 then .ok s else appendByteToWriter s.wAcc s

/-- A command on the writer: on an error the writer is as before the command (60_exceptions.md R234). -/
def writerCommand (s : State) : Except CmdError State → Ran
  | .ok t => .done t
  | .error e => .raised e s

/-- `BS.WINIT` (40_bitstream.md R101). -/
def execBsWinit (s : State) : Host.Outcome State Fault Refusal :=
  command (encode .bsWinit) s fun s => .done (clearWriter s)

/-- `BS.WBIT b` (40_bitstream.md R102). -/
def execBsWbit (b : Nat) (s : State) : Host.Outcome State Fault Refusal :=
  command (encode (.bsWbit b)) s fun s => writerCommand s (writeBit s (decide (b ≠ 0)))

/-- `BS.WBITS n` (40_bitstream.md R103): the `n` low bits of `ARG0`, bit `n - 1` first. -/
def execBsWbits (n : Nat) (s : State) : Host.Outcome State Fault Refusal :=
  command (encode (.bsWbits n)) s fun s =>
    if 64 < n then .raised ⟨.invalidInput, n⟩ s
    else writerCommand s (writeBits s (bitsMsb n s.arg0.toNat))

/-- `BS.FLUSH` (40_bitstream.md R104). -/
def execBsFlush (s : State) : Host.Outcome State Fault Refusal :=
  command (encode .bsFlush) s fun s => writerCommand s (flushWriter s)

/-! ### The reader -/

/-- The check every command that uses the reader applies first (40_bitstream.md R105, 10_state.md R27). -/
def readerBlocked (s : State) : Bool :=
  s.rSel == 0#2 && decide (s.cap.bufCap < s.srcLen.toNat)

/-- Byte `a` of the buffer the reader borrows. -/
def readerByte (s : State) (a : Nat) : Byte :=
  match bufferOf s.rSel.toNat with
  | some b => bufferByte s b a
  | none => 0#8

/-- The cursor after one more bit (40_bitstream.md R105). -/
def advanceCursor (s : State) : State :=
  if s.rBit = 7#3 then setCursor (s.rByte + 1#64) 0#3 s else setCursor s.rByte (s.rBit + 1#3) s

/-- `read_bit()` (40_bitstream.md R105). -/
def readBit (s : State) : Except CmdError (Bool × State) :=
  if readerLen s ≤ s.rByte.toNat then .error ⟨.streamExhausted, s.rByte.toNat⟩
  else .ok ((readerByte s s.rByte.toNat).getLsbD (7 - s.rBit.toNat), advanceCursor s)

/-- `n` calls of `read_bit`, accumulated after `v` most significant bit first (40_bitstream.md R108). -/
def readBits : Nat → Nat → State → Except CmdError (Nat × State)
  | 0, v, s => .ok (v, s)
  | n + 1, v, s => match readBit s with
    | .ok (b, t) => readBits n (2 * v + b.toNat) t
    | .error e => .error e

/-- The cursor at the end of the buffer, where an exhausted `BS.RBITS` leaves it (40_bitstream.md R108,
60_exceptions.md R234, 92_eei_decisions.md D14). -/
def cursorAtEnd (s : State) : State := setCursor (BitVec.ofNat 64 (readerLen s)) 0#3 s

/-- `BS.RINIT sel` (40_bitstream.md R106). -/
def execBsRinit (sel : Nat) (s : State) : Host.Outcome State Fault Refusal :=
  command (encode (.bsRinit sel)) s fun s =>
    match bufferOf sel with
    | some _ => .done { s with rSel := BitVec.ofNat 2 sel, rByte := 0#64, rBit := 0#3 }
    | none => .raised ⟨.invalidInput, sel⟩ s

/-- `BS.RBIT` (40_bitstream.md R107). -/
def execBsRbit (s : State) : Host.Outcome State Fault Refusal :=
  command (encode .bsRbit) s fun s =>
    if readerBlocked s then .raised ⟨.invalidInput, s.srcLen.toNat⟩ s
    else match readBit s with
      | .ok (b, t) => .done (setRes (BitVec.ofNat 64 b.toNat) t)
      | .error e => .raised e s

/-- `BS.RBITS n` (40_bitstream.md R108). The check of R105 comes before the check of `n` (log entry 9); on
exhaustion the cursor is at the end of the buffer and `RES` is unchanged; the detail is the `R_BYTE` the failing
`read_bit` found (log entry 10). -/
def execBsRbits (n : Nat) (s : State) : Host.Outcome State Fault Refusal :=
  command (encode (.bsRbits n)) s fun s =>
    if readerBlocked s then .raised ⟨.invalidInput, s.srcLen.toNat⟩ s
    else if 64 < n then .raised ⟨.invalidInput, n⟩ s
    else match readBits n 0 s with
      | .ok (v, t) => .done (setRes (BitVec.ofNat 64 v) t)
      | .error e => .raised e (cursorAtEnd s)

end Sys2Proof.Machine
end

