-- ==== Sys2Proof/Machine/Huffman.lean ====
section
/-! DEFINITION. The Huffman unit: frequency table, tree builder, code tables, symbol encoder and decoder
(43_huffman.md). -/

namespace Sys2Proof.Machine

/-! ### Frequency table -/

/-- `count_freq(bytes)` (43_huffman.md R150). -/
def countFreq (bytes : List Byte) : Table (BitVec 64) :=
  Table.ofFn fun s => BitVec.ofNat 64 (bytes.count s)

/-- `HUF.FREQ` (43_huffman.md R151). -/
def execHufFreq (s : State) : Host.Outcome State Fault Refusal :=
  command (encode .hufFreq) s fun s =>
    match sourceBytes s with
    | .error e => .raised e s
    | .ok data => .done { s with freq := countFreq data }

/-! ### Tree construction -/

/-- The total of a frequency table, a natural number without wrap (43_huffman.md R153). -/
def freqTotal (f : Table (BitVec 64)) : Nat := (f.entries.map BitVec.toNat).sum

/-- The order of the queue: lexicographic on `(freq, key)` (43_huffman.md R152). -/
def nodeBefore (a b : Node) : Bool :=
  decide (a.freq.toNat < b.freq.toNat) || (a.freq == b.freq && decide (a.key.toNat < b.key.toNat))

/-- The leaf of symbol `s` with frequency `f` (43_huffman.md R154). -/
def leafNode (s : Byte) (f : BitVec 64) : Node := ⟨.leaf, s, f, s, Config.none10, Config.none10⟩

/-- The leaves of a frequency table, ascending by symbol (43_huffman.md R154). -/
def leavesOf (f : Table (BitVec 64)) : List Node :=
  ((allSymbols.zip f.entries).filter fun p => p.2 != 0#64).map fun p => leafNode p.1 p.2

/-- A waiting node with its arena index. -/
abbrev QueueEntry := Nat × Node

/-- The entry of `q :: qs` whose node is first in the order of 43_huffman.md R152. -/
def firstInQueue : QueueEntry → List QueueEntry → QueueEntry
  | q, [] => q
  | q, r :: rs => if nodeBefore r.2 q.2 then firstInQueue r rs else firstInQueue q rs

/-- The queue without the entry of index `i`. -/
def removeFromQueue (i : Nat) (qs : List QueueEntry) : List QueueEntry := qs.filter fun q => q.1 != i

/-- The first entry of a queue and the rest (43_huffman.md R154, one pop). -/
def popFirst : List QueueEntry → Option (QueueEntry × List QueueEntry)
  | [] => none
  | q :: qs =>
    let m := firstInQueue q qs
    some (m, removeFromQueue m.1 (q :: qs))

/-- The parent of the two popped nodes: the first popped is the left child (43_huffman.md R154). -/
def parentNode (a b : QueueEntry) : Node :=
  ⟨.internal, 0#8, a.2.freq + b.2.freq, if a.2.key.toNat ≤ b.2.key.toNat then a.2.key else b.2.key,
    BitVec.ofNat 10 a.1, BitVec.ofNat 10 b.1⟩

/-- The merging loop (43_huffman.md R154). Each round takes two entries and adds one, so the number of leaves is
enough `fuel`. Answers the arena and the root, if there is one. -/
def mergeQueue : Nat → List Node → List QueueEntry → List Node × Option Nat
  | _, arena, [] => (arena, none)
  | _, arena, [q] => (arena, some q.1)
  | 0, arena, _ :: _ :: _ => (arena, none)
  | fuel + 1, arena, q :: r :: qs =>
    match popFirst (q :: r :: qs) with
    | none => (arena, none)
    | some (a, rest) => match popFirst rest with
      | none => (arena, none)
      | some (b, rest') =>
        let parent := parentNode a b
        mergeQueue fuel (arena ++ [parent]) (rest' ++ [(arena.length, parent)])

/-- `build(F)` (43_huffman.md R154): the arena and the root, `none` when the tree is absent. -/
def buildTree (f : Table (BitVec 64)) : List Node × Option Nat :=
  let leaves := leavesOf f
  mergeQueue leaves.length leaves (Sparse.ofList leaves)

/-- The content of `ROOT` (10_state.md R33). -/
def rootIndex : Option Nat → BitVec 10
  | some i => BitVec.ofNat 10 i
  | none => Config.none10

/-- `HUF.BUILD` (43_huffman.md R155). -/
def execHufBuild (s : State) : Host.Outcome State Fault Refusal :=
  command (encode .hufBuild) s fun s =>
    if 2 ^ 64 ≤ freqTotal s.freq then .raised ⟨.invalidInput, 0⟩ s
    else
      let (arena, root) := buildTree s.freq
      .done { s with node := Sparse.ofList arena, nodeCnt := BitVec.ofNat 10 arena.length, root := rootIndex root }

/-! ### Code tables -/

/-- The table holding the codes listed, `(0, 0)` for every other symbol. -/
def codeTable (codes : List (Byte × CodeEntry)) : Table CodeEntry :=
  Table.ofFn fun s => (codes.lookup s).getD ⟨0#8, 0⟩

/-- The leaves below node `i`, with the path `(len, bits)` to `i` extended: 0 for a left edge, 1 for a right
edge (43_huffman.md R156). `fuel` bounds the depth; a path visits no node twice, so the size of the arena is
enough. -/
def pathsFrom (arena : List Node) : Nat → Nat → Nat → Nat → List (Byte × CodeEntry)
  | 0, _, _, _ => []
  | fuel + 1, i, len, bits => match arena[i]? with
    | none => []
    | some n => match n.kind with
      | .leaf => [(n.sym, ⟨BitVec.ofNat 8 len, bits⟩)]
      | .internal =>
        pathsFrom arena fuel n.left.toNat (len + 1) (2 * bits) ++
          pathsFrom arena fuel n.right.toNat (len + 1) (2 * bits + 1)

/-- `tree_codes(arena, root)` (43_huffman.md R156): a root that is a leaf has the code "0". -/
def treeCodes (arena : List Node) (root : Nat) : Table CodeEntry :=
  match arena[root]? with
  | none => codeTable []
  | some n => match n.kind with
    | .leaf => codeTable [(n.sym, ⟨1#8, 0⟩)]
    | .internal => codeTable (pathsFrom arena arena.length root 0 0)

/-- `HUF.CODES` (43_huffman.md R157). -/
def execHufCodes (s : State) : Host.Outcome State Fault Refusal :=
  command (encode .hufCodes) s fun s =>
    if s.root = Config.none10 then .raised ⟨.compressionFailed, 0⟩ s
    else .done { s with tcode := treeCodes (arenaOf s) s.root.toNat }

/-- `code_lengths(C)` (43_huffman.md R158). -/
def codeLengths (c : Table CodeEntry) : Table (BitVec 8) := Table.ofFn fun s => (c.get s).len

/-- `HUF.LENS` (43_huffman.md R159). -/
def execHufLens (s : State) : Host.Outcome State Fault Refusal :=
  command (encode .hufLens) s fun s => .done { s with len := codeLengths s.tcode }

/-- The pairs (length, symbol) of the symbols with a non-zero length, ascending by symbol
(43_huffman.md R160). -/
def codedPairs (l : Table (BitVec 8)) : List (Nat × Byte) :=
  ((l.entries.zip allSymbols).filter fun p => p.1 != 0#8).map fun p => (p.1.toNat, p.2)

/-- The list `P` of 43_huffman.md R160: ascending by length, by symbol among equal lengths. -/
def sortedPairs (l : Table (BitVec 8)) : List (Nat × Byte) :=
  (List.range 256).flatMap fun n => (codedPairs l).filter fun p => p.1 == n

/-- The code of a pair of length `l`, after a pair with the given code and length (43_huffman.md R160). -/
def nextCode : Option (Nat × Nat) → Nat → Nat
  | none, _ => 0
  | some (code, prevlen), l => (code + 1) <<< (l - prevlen)

/-- The loop of 43_huffman.md R160; it fails at the first code that does not fit its length (R161). -/
def assignCodes : Option (Nat × Nat) → List (Nat × Byte) → Except CmdError (List (Byte × CodeEntry))
  | _, [] => .ok []
  | prev, (l, s) :: ps =>
    let code := nextCode prev l
    if 2 ^ l ≤ code then .error ⟨.corruptHeader, s.toNat⟩
    else match assignCodes (some (code, l)) ps with
      | .ok cs => .ok ((s, ⟨BitVec.ofNat 8 l, code⟩) :: cs)
      | .error e => .error e

/-- `canonical(L)` (43_huffman.md R160). -/
def canonical (l : Table (BitVec 8)) : Except CmdError (Table CodeEntry) :=
  match assignCodes none (sortedPairs l) with
  | .ok cs => .ok (codeTable cs)
  | .error e => .error e

/-- `HUF.CANON` (43_huffman.md R162). -/
def execHufCanon (s : State) : Host.Outcome State Fault Refusal :=
  command (encode .hufCanon) s fun s =>
    match canonical s.len with
    | .ok c => .done { s with code := c }
    | .error e => .raised e s

/-! ### Symbol encoder and decoder -/

/-- The bit string of a code, first bit first (43_huffman.md R163). -/
def codeBits (c : CodeEntry) : List Bool := bitsMsb c.len.toNat c.bits

/-- The symbols from index `i` of the source on, written as codes through the writer (43_huffman.md R164). -/
def encodeSymbols (s : State) : Nat → List Byte → Except CmdError State
  | _, [] => .ok s
  | i, x :: xs =>
    if (s.code.get x).len = 0#8 then .error ⟨.compressionFailed, i⟩
    else match writeBits s (codeBits (s.code.get x)) with
      | .ok t => encodeSymbols t (i + 1) xs
      | .error e => .error e

/-- `HUF.ENC` (43_huffman.md R164). On `CompressionFailed` and `MemoryError` the writer is cleared
(60_exceptions.md R234). -/
def execHufEnc (s : State) : Host.Outcome State Fault Refusal :=
  command (encode .hufEnc) s fun s =>
    match sourceBytes s with
    | .error e => .raised e s
    | .ok data => match encodeSymbols s 0 data with
      | .ok t => .done t
      | .error e => .raised e (clearWriter s)

/-- The symbol whose code is `(cl, cv)`. Valid canonical codes are distinct, so there is at most one
(43_huffman.md R165); otherwise the smallest (log entry 22). -/
def findSymbol (c : Table CodeEntry) (cl cv : Nat) : Option Byte :=
  ((allSymbols.zip c.entries).find? fun p => p.2.len.toNat == cl && p.2.bits == cv).map Prod.fst

/-- How the decoding loop ended. -/
inductive DecodeEnd where
  /-- It returned its output. -/
  | returned
  /-- Bounded mode, no bit left. -/
  | exhausted
  /-- The output would exceed `BUF_CAP`. -/
  | full
deriving DecidableEq, Repr

/-- What the decoding loop did: its output, the number of bits it consumed, how it ended. -/
structure Decoded where
  out : List Byte
  used : Nat
  ending : DecodeEnd
deriving DecidableEq, Repr

/-- The loop of 43_huffman.md R165 over the bits still to be read. `left` is `count - len(out)`, `room` is
`BUF_CAP - len(out)`, `(cl, cv)` the candidate code. -/
def huffDecode (c : Table CodeEntry) (bound : Bool) : List Bool → Nat → Nat → Nat → Nat → Decoded
  | bits, left, room, cl, cv =>
    match bits with
    | [] => ⟨[], 0, if bound = true ∧ left ≠ 0 then .exhausted else .returned⟩
    | b :: bs =>
      if bound = true ∧ left = 0 then ⟨[], 0, .returned⟩
      else
        let cv' := 2 * cv + b.toNat
        match findSymbol c (cl + 1) cv' with
        | none =>
          let r := huffDecode c bound bs left room (cl + 1) cv'
          ⟨r.out, r.used + 1, r.ending⟩
        | some x =>
          if room = 0 then ⟨[], 1, .full⟩
          else
            let r := huffDecode c bound bs (left - 1) (room - 1) 0 0
            ⟨x :: r.out, r.used + 1, r.ending⟩

/-- The bits the reader has still to read (40_bitstream.md R105). -/
def remainingBits (s : State) : List Bool :=
  (bitsOf ((List.range (readerLen s)).map (readerByte s))).drop (8 * s.rByte.toNat + s.rBit.toNat)

/-- The cursor moved over `n` bits (40_bitstream.md R105). -/
def skipBits (n : Nat) (s : State) : State :=
  let p := 8 * s.rByte.toNat + s.rBit.toNat + n
  setCursor (BitVec.ofNat 64 (p / 8)) (BitVec.ofNat 3 (p % 8)) s

/-- The result of the decoding loop as an output or an error; `byte` is the cursor's byte position at the end
(43_huffman.md R165, R166). -/
def decodedResult (bufCap byte : Nat) (d : Decoded) : Except CmdError (List Byte) :=
  match d.ending with
  | .returned => .ok d.out
  | .exhausted => .error ⟨.streamExhausted, byte⟩
  | .full => .error ⟨.memoryError, bufCap⟩

/-- `HUF.DEC` (43_huffman.md R166). On `StreamExhausted` and `MemoryError` the cursor stays where the decoder
stopped and `DST` is emptied (60_exceptions.md R234). -/
def execHufDec (s : State) : Host.Outcome State Fault Refusal :=
  command (encode .hufDec) s fun s =>
    if s.rSel = 1#2 then .raised ⟨.invalidInput, 1⟩ (failDst s)
    else if readerBlocked s then .raised ⟨.invalidInput, s.srcLen.toNat⟩ (failDst s)
    else
      let d := huffDecode s.code (bounded s) (remainingBits s) s.symCnt.toNat s.cap.bufCap 0 0
      let t := skipBits d.used s
      produceDst t (decodedResult s.cap.bufCap t.rByte.toNat d)

end Sys2Proof.Machine
end

