-- ==== Sys2Proof/Machine/Lz77.lean ====
section
/-! DEFINITION. The LZ77 tokenizer, detokenizer and token serialisation (42_lz77.md). -/

namespace Sys2Proof.Machine

/-! ### Tokenizing -/

/-- The number of leading positions at which the two byte sequences agree, at most `maxlen`
(42_lz77.md R131, the inner loop). -/
def matchLen : Nat → List Byte → List Byte → Nat
  | 0, _, _ => 0
  | _ + 1, [], _ => 0
  | _ + 1, _ :: _, [] => 0
  | maxlen + 1, x :: xs, y :: ys => if x = y then matchLen maxlen xs ys + 1 else 0

/-- The search over candidate distances in the order given; `best` and `boff` are the longest match so far and
its distance, replaced only by a strictly longer match (42_lz77.md R131, R132). A match may run past `p`. -/
def searchMatch (data : List Byte) (p maxlen : Nat) : List Nat → Nat → Nat → Nat × Nat
  | [], best, boff => (best, boff)
  | d :: ds, best, boff =>
    let k := matchLen maxlen (data.drop (p - d)) (data.drop p)
    if best < k then searchMatch data p maxlen ds k d else searchMatch data p maxlen ds best boff

/-- The longest match at position `p` and the smallest distance that gives it: distances 1 to
`min(window, p)`, ascending (42_lz77.md R131, R132). -/
def longestMatch (data : List Byte) (window lookahead p : Nat) : Nat × Nat :=
  searchMatch data p (min lookahead (data.length - p)) (List.range' 1 (min window p)) 0 0

/-- The tokens from position `p` on (42_lz77.md R131). `fuel` bounds the number of tokens; every token moves
`p` forward, so `data.length` is enough. The byte after a match that reaches the end is the sentinel 0 (R133). -/
def lzTokensFrom (data : List Byte) (window lookahead : Nat) : Nat → Nat → List Token
  | 0, _ => []
  | fuel + 1, p =>
    if p < data.length then
      let (best, boff) := longestMatch data window lookahead p
      if best = 0 then ⟨0#16, 0#16, data.getD p 0#8⟩ :: lzTokensFrom data window lookahead fuel (p + 1)
      else ⟨BitVec.ofNat 16 boff, BitVec.ofNat 16 best, data.getD (p + best) 0#8⟩ ::
        lzTokensFrom data window lookahead fuel (p + best + 1)
    else []

/-- `lz_compress(data, window, lookahead)` (42_lz77.md R131). -/
def lzCompress (data : List Byte) (window lookahead : Nat) : List Token :=
  lzTokensFrom data window lookahead data.length 0

/-- `LZ.COMP` (42_lz77.md R134). -/
def execLzComp (s : State) : Host.Outcome State Fault Refusal :=
  command (encode .lzComp) s fun s =>
    match sourceBytes s with
    | .error e => .raised e s
    | .ok data =>
      let toks := lzCompress data s.window.toNat s.lookahead.toNat
      if s.cap.tokCap < toks.length then .raised ⟨.memoryError, toks.length⟩ (failTokens s)
      else .done (putTokens toks s)

/-! ### Detokenizing -/

/-- `append(out, x)` (00_scope.md section 6), the output held newest byte first. -/
def appendOut (bufCap : Nat) (out : List Byte) (x : Byte) : Except CmdError (List Byte) :=
  if out.length < bufCap then .ok (x :: out) else .error ⟨.memoryError, bufCap⟩

/-- `l` bytes copied one at a time from `o` bytes behind the cursor; the output is held newest byte first, so
that byte is entry `o - 1` (42_lz77.md R135). -/
def copyBack (bufCap o : Nat) : Nat → List Byte → Except CmdError (List Byte)
  | 0, out => .ok out
  | l + 1, out => match appendOut bufCap out (out.getD (o - 1) 0#8) with
    | .ok out' => copyBack bufCap o l out'
    | .error e => .error e

/-- The replay of the tokens from index `i` on; `out` is the output so far, newest byte first
(42_lz77.md R135). -/
def lzReplay (bufCap : Nat) (bound : Bool) (origlen : Nat) : Nat → List Byte → List Token → Except CmdError (List Byte)
  | _, out, [] => .ok out
  | i, out, t :: ts =>
    if out.length < t.offset.toNat then .error ⟨.corruptToken, i⟩
    else if t.length ≠ 0#16 ∧ t.offset = 0#16 then .error ⟨.corruptToken, i⟩
    else match copyBack bufCap t.offset.toNat t.length.toNat out with
      | .error e => .error e
      | .ok out' =>
        if bound = true ∧ ts = [] ∧ t.length ≠ 0#16 ∧ t.next = 0#8 ∧ out'.length = origlen then .ok out'
        else match appendOut bufCap out' t.next with
          | .error e => .error e
          | .ok out'' => lzReplay bufCap bound origlen (i + 1) out'' ts

/-- `lz_decompress(toks, bounded, origlen)` (42_lz77.md R135). -/
def lzDecompress (bufCap : Nat) (bound : Bool) (origlen : Nat) (toks : List Token) : Except CmdError (List Byte) :=
  match lzReplay bufCap bound origlen 0 [] toks with
  | .error e => .error e
  | .ok out =>
    if bound = true ∧ out.length ≠ origlen then .error ⟨.decompressionFailed, out.length⟩
    else .ok out.reverse

/-- `LZ.DECOMP` (42_lz77.md R136). -/
def execLzDecomp (s : State) : Host.Outcome State Fault Refusal :=
  command (encode .lzDecomp) s fun s =>
    produceDst s (match tokenList s with
      | .error e => .error e
      | .ok toks => lzDecompress s.cap.bufCap (bounded s) s.origLen.toNat toks)

/-! ### Token serialisation -/

/-- The 5-byte record of a token (30_encoding.md R81). -/
def tokenBytes (t : Token) : List Byte := be16 t.offset ++ be16 t.length ++ [t.next]

/-- `tokens_to_bytes(toks)` (42_lz77.md R137). -/
def tokensToBytes (toks : List Token) : List Byte := toks.flatMap tokenBytes

/-- The records of a byte sequence; 1 to 4 trailing bytes are no record (42_lz77.md R139). -/
def parseTokens : List Byte → List Token
  | a :: b :: c :: d :: e :: rest => ⟨fromBe16 a b, fromBe16 c d, e⟩ :: parseTokens rest
  | _ => []

/-- `bytes_to_tokens(bytes)` (42_lz77.md R139). -/
def bytesToTokens (bytes : List Byte) : Except CmdError (List Token) :=
  if bytes.length % 5 = 0 then .ok (parseTokens bytes) else .error ⟨.corruptToken, bytes.length / 5⟩

/-- `LZ.T2B` (42_lz77.md R138). -/
def execLzT2b (s : State) : Host.Outcome State Fault Refusal :=
  command (encode .lzT2b) s fun s =>
    produceDst s (match tokenList s with
      | .error e => .error e
      | .ok toks =>
        if s.cap.bufCap < 5 * toks.length then .error ⟨.memoryError, 5 * toks.length⟩
        else .ok (tokensToBytes toks))

/-- `LZ.B2T` (42_lz77.md R140). -/
def execLzB2t (s : State) : Host.Outcome State Fault Refusal :=
  command (encode .lzB2t) s fun s =>
    match sourceBytes s with
    | .error e => .raised e s
    | .ok data => match bytesToTokens data with
      | .error e => .raised e (failTokens s)
      | .ok toks =>
        if s.cap.tokCap < toks.length then .raised ⟨.memoryError, toks.length⟩ (failTokens s)
        else .done (putTokens toks s)

end Sys2Proof.Machine
end

