-- ==== Sys2Proof/Machine/Frame.lean ====
section
/-! DEFINITION. The frame codec (44_frame.md; layouts 30_encoding.md R77 to R87). -/

namespace Sys2Proof.Machine

/-! ### Magics and classification -/

/-- The frame variants (30_encoding.md R77). -/
inductive Variant where
  | unrecognised
  | huf1
  | huf2
  | hybrid
  | par
  | stor
deriving DecidableEq, Repr

/-- The variant code (30_encoding.md R77). -/
def variantCode : Variant → BitVec 64
  | .unrecognised => 0#64
  | .huf1 => 1#64
  | .huf2 => 2#64
  | .hybrid => 3#64
  | .par => 4#64
  | .stor => 5#64

/-- "HUF1" (30_encoding.md R77). -/
def magicHuf1 : List Byte := [0x48#8, 0x55#8, 0x46#8, 0x31#8]

/-- "HUF2". -/
def magicHuf2 : List Byte := [0x48#8, 0x55#8, 0x46#8, 0x32#8]

/-- "HUF_LZ77". -/
def magicHybrid : List Byte := [0x48#8, 0x55#8, 0x46#8, 0x5F#8, 0x4C#8, 0x5A#8, 0x37#8, 0x37#8]

/-- "HUF_PAR". -/
def magicPar : List Byte := [0x48#8, 0x55#8, 0x46#8, 0x5F#8, 0x50#8, 0x41#8, 0x52#8]

/-- "STOR". -/
def magicStor : List Byte := [0x53#8, 0x54#8, 0x4F#8, 0x52#8]

/-- `classify(bytes)` (44_frame.md R187). No magic is a prefix of another, so the order does not matter; the
length of the magic goes with the variant. -/
def classify (bytes : List Byte) : Variant :=
  if magicHybrid.isPrefixOf bytes then .hybrid
  else if magicPar.isPrefixOf bytes then .par
  else if magicHuf1.isPrefixOf bytes then .huf1
  else if magicHuf2.isPrefixOf bytes then .huf2
  else if magicStor.isPrefixOf bytes then .stor
  else .unrecognised

/-- `FRM.SNIFF` (44_frame.md R188). -/
def execFrmSniff (s : State) : Host.Outcome State Fault Refusal :=
  command (encode .frmSniff) s fun s =>
    match sourceBytes s with
    | .error e => .raised e s
    | .ok data => .done (setRes (variantCode (classify data)) s)

/-! ### Encoding -/

/-- Bits packed into bytes, first bit in bit 7, the last byte padded with zero bits (30_encoding.md R87). `acc`
is the partial byte and `n` the number of bits in it, as in 40_bitstream.md R100. -/
def packFrom (acc : BitVec 8) (n : Nat) : List Bool → List Byte
  | [] => if n = 0 then [] else [acc]
  | b :: bs =>
    let acc' := acc ||| (BitVec.ofNat 8 b.toNat <<< (7 - n))
    if n = 7 then acc' :: packFrom 0#8 0 bs else packFrom acc' (n + 1) bs

/-- A bit string as the flushed bytes of a bit stream. -/
def packBits (bits : List Bool) : List Byte := packFrom 0#8 0 bits

/-- The capacity check of a private byte sequence whose size is known whole (44_frame.md R180). -/
def checkBytes (bufCap : Nat) (xs : List Byte) : Except CmdError (List Byte) :=
  if bufCap < xs.length then .error ⟨.memoryError, xs.length⟩ else .ok xs

/-- The capacity check of a private token list (44_frame.md R180). -/
def checkTokens (tokCap : Nat) (toks : List Token) : Except CmdError (List Token) :=
  if tokCap < toks.length then .error ⟨.memoryError, toks.length⟩ else .ok toks

/-- The empty-file frame (30_encoding.md R84, 44_frame.md R182). -/
def emptyFrame : List Byte := magicHuf1 ++ toLe 8 0

/-- A frame with the number of symbols coded in it and the CRC of its payload (44_frame.md R181). -/
structure Encoded where
  frame : List Byte
  nsym : Nat
  crc : BitVec 32
deriving DecidableEq, Repr

/-- The tree of a stream, its code lengths: step 4 of 44_frame.md R181. -/
def streamLengths (stream : List Byte) : Table (BitVec 8) :=
  let (arena, root) := buildTree (countFreq stream)
  codeLengths (treeCodes arena (rootIndex root).toNat)

/-- The payload bits of a stream under a code table: step 6 of 44_frame.md R181. -/
def streamBits (c : Table CodeEntry) (stream : List Byte) : List Bool :=
  stream.flatMap fun x => codeBits (c.get x)

/-- Steps 4 to 7 of `encode_single` (44_frame.md R181) with the capacity checks of R180 on the payload and the
frame (log entry 12). `canonical` cannot fail here (R181; log entry 15). -/
def encodeStream (bufCap : Nat) (magic stream : List Byte) : Except CmdError Encoded :=
  let l := streamLengths stream
  match canonical l with
  | .error e => .error e
  | .ok c => match checkBytes bufCap (packBits (streamBits c stream)) with
    | .error e => .error e
    | .ok payload =>
      let crc := crc32 payload
      match checkBytes bufCap (magic ++ l.entries ++ toLe 4 crc.toNat ++ payload) with
      | .error e => .error e
      | .ok frame => .ok ⟨frame, stream.length, crc⟩

/-- `encode_single(data, false)` (44_frame.md R181). -/
def encodePlain (bufCap : Nat) (data : List Byte) : Except CmdError Encoded :=
  encodeStream bufCap magicHuf2 data

/-- `encode_single(data, true)` (44_frame.md R181): the stream is the serialised tokens (step 3). -/
def encodeHybrid (cap : Config) (window lookahead : Nat) (data : List Byte) : Except CmdError Encoded :=
  match checkTokens cap.tokCap (lzCompress data window lookahead) with
  | .error e => .error e
  | .ok toks => match checkBytes cap.bufCap (tokensToBytes toks) with
    | .error e => .error e
    | .ok stream => encodeStream cap.bufCap magicHybrid stream

/-- `ceil(a / b)` (00_scope.md R3). -/
def ceilDiv (a b : Nat) : Nat := (a + b - 1) / b

/-- The chunks of the input: chunk `i` is bytes `i * CHUNKSZ .. min((i+1) * CHUNKSZ, SRC_LEN) - 1`
(44_frame.md R185). -/
def chunksOf (size : Nat) (data : List Byte) : List (List Byte) :=
  (List.range (ceilDiv data.length size)).map fun i => (data.drop (i * size)).take size

/-- The blobs of the chunks, in index order; the first failing chunk decides the error (44_frame.md R185,
60_exceptions.md R235). -/
def encodeChunks (bufCap : Nat) : List (List Byte) → Except CmdError (List Encoded)
  | [] => .ok []
  | d :: ds => match encodePlain bufCap d with
    | .error e => .error e
    | .ok b => match encodeChunks bufCap ds with
      | .error e => .error e
      | .ok bs => .ok (b :: bs)

/-- The container of the blobs (30_encoding.md R86). -/
def containerBytes (blobs : List (List Byte)) : List Byte :=
  magicPar ++ toLe 8 blobs.length ++ blobs.flatMap (fun b => toLe 8 b.length) ++ blobs.flatten

/-- The `HUF_PAR` container of non-empty data (44_frame.md R185); `crc` is the CRC of the last chunk. -/
def encodePar (bufCap size : Nat) (data : List Byte) : Except CmdError Encoded :=
  if size = 0 then .error ⟨.invalidInput, 0⟩
  else match encodeChunks bufCap (chunksOf size data) with
    | .error e => .error e
    | .ok blobs => match checkBytes bufCap (containerBytes (blobs.map Encoded.frame)) with
      | .error e => .error e
      | .ok frame => .ok ⟨frame, data.length, (blobs.getLast?.map Encoded.crc).getD 0#32⟩

/-- The `STOR` frame of data (30_encoding.md R85). -/
def storFrame (data : List Byte) : List Byte := magicStor ++ toLe 8 data.length ++ data

/-- The state after a successful `FRM.ENC.*` (44_frame.md R199). -/
def encodedState (frame : List Byte) (nsym : Nat) (crc : BitVec 32) (s : State) : State :=
  { putDst frame s with symCnt := BitVec.ofNat 64 nsym, origLen := s.srcLen, crcr := crc }

/-- A successful frame, or the error with `DST` emptied and every other register unchanged
(60_exceptions.md R234). -/
def finishEncode (s : State) : Except CmdError Encoded → Ran
  | .ok r => .done (encodedState r.frame r.nsym r.crc s)
  | .error e => .raised e (failDst s)

/-- What every `FRM.ENC.*` does: the check of `SRC_LEN` (44_frame.md R180), the empty-file frame for empty input
(R182, `CRCR` unchanged), otherwise the frame `enc` gives. -/
def frameEncode (s : State) (enc : List Byte → Except CmdError Encoded) : Ran :=
  finishEncode s (match sourceBytes s with
    | .error e => .error e
    | .ok data =>
      if data = [] then
        match checkBytes s.cap.bufCap emptyFrame with
        | .error e => .error e
        | .ok frame => .ok ⟨frame, 0, s.crcr⟩
      else enc data)

/-- `FRM.ENC.PLAIN` (44_frame.md R183). -/
def execFrmEncPlain (s : State) : Host.Outcome State Fault Refusal :=
  command (encode .frmEncPlain) s fun s => frameEncode s (encodePlain s.cap.bufCap)

/-- `FRM.ENC.HYB` (44_frame.md R184). -/
def execFrmEncHyb (s : State) : Host.Outcome State Fault Refusal :=
  command (encode .frmEncHyb) s fun s =>
    frameEncode s (encodeHybrid s.cap s.window.toNat s.lookahead.toNat)

/-- `FRM.ENC.PAR` (44_frame.md R185). -/
def execFrmEncPar (s : State) : Host.Outcome State Fault Refusal :=
  command (encode .frmEncPar) s fun s => frameEncode s (encodePar s.cap.bufCap s.chunkSz.toNat)

/-- `FRM.ENC.STOR` (44_frame.md R186): `SYMCNT` is 0 and `CRCR` unchanged. -/
def execFrmEncStor (s : State) : Host.Outcome State Fault Refusal :=
  command (encode .frmEncStor) s fun s => frameEncode s fun data =>
    match checkBytes s.cap.bufCap (storFrame data) with
    | .error e => .error e
    | .ok frame => .ok ⟨frame, 0, s.crcr⟩

/-! ### Decoding -/

/-- A decoding: the CRC last recomputed (`CRCR`, which survives an error) and the output or the error. -/
structure Decoding where
  crc : BitVec 32
  result : Except CmdError (List Byte)
deriving DecidableEq, Repr

/-- `decode_huf1(S)` (44_frame.md R190). -/
def decodeHuf1 (frame : List Byte) : Except CmdError (List Byte) :=
  if frame.length < 12 then .error ⟨.corruptHeader, frame.length⟩
  else
    let n := fromLe ((frame.drop 4).take 8)
    if n = 0 then .ok [] else .error ⟨.decompressionFailed, n⟩

/-- The table whose entries are the first 256 bytes of `body`. -/
def lengthTable (body : List Byte) : Table (BitVec 8) :=
  Table.ofFn fun s => body.getD s.toNat 0#8

/-- `decode_single(body, bounded, count)` (44_frame.md R191, R192); `crc` is the content of `CRCR` before. -/
def decodeSingle (bufCap : Nat) (bound : Bool) (count : Nat) (crc : BitVec 32) (body : List Byte) : Decoding :=
  if body.length < 256 then ⟨crc, .error ⟨.corruptHeader, body.length⟩⟩
  else if (body.take 256).all (fun b => b == 0#8) then ⟨crc, .ok []⟩
  else if body.length < 260 then ⟨crc, .error ⟨.corruptHeader, body.length⟩⟩
  else
    let stored := fromLe ((body.drop 256).take 4)
    let payload := body.drop 260
    let computed := crc32 payload
    if computed.toNat ≠ stored then ⟨computed, .error ⟨.checksumMismatch, stored⟩⟩
    else match canonical (lengthTable body) with
      | .error e => ⟨computed, .error e⟩
      | .ok c =>
        let d := huffDecode c bound (bitsOf payload) count bufCap 0 0
        ⟨computed, decodedResult bufCap (d.used / 8) d⟩

/-- `decode_hybrid(body, bounded)` (44_frame.md R193). -/
def decodeHybrid (cap : Config) (bound : Bool) (symcnt origlen : Nat) (crc : BitVec 32) (body : List Byte) : Decoding :=
  let d := decodeSingle cap.bufCap bound symcnt crc body
  ⟨d.crc, match d.result with
    | .error e => .error e
    | .ok tb => match bytesToTokens tb with
      | .error e => .error e
      | .ok toks => match checkTokens cap.tokCap toks with
        | .error e => .error e
        | .ok toks => lzDecompress cap.bufCap bound origlen toks⟩

/-- `decode_stor(S)` (44_frame.md R194). -/
def decodeStor (frame : List Byte) : Except CmdError (List Byte) :=
  if frame.length < 12 then .error ⟨.corruptHeader, frame.length⟩
  else
    let n := fromLe ((frame.drop 4).take 8)
    if frame.length - 12 ≠ n then .error ⟨.corruptHeader, n⟩ else .ok (frame.drop 12)

/-- `chunk_count(i)` (44_frame.md R196). -/
def chunkCount (origlen size i : Nat) : Nat := min size (origlen - i * size)

/-- The chunks of a container from index `i` on, whose sizes are given and whose blobs are the bytes `rest`
(44_frame.md R195, the loop). -/
def decodeChunks (bufCap : Nat) (bound : Bool) (origlen size : Nat) :
    Nat → List Nat → BitVec 32 → List Byte → Decoding
  | _, [], crc, _ => ⟨crc, .ok []⟩
  | i, n :: ns, crc, rest =>
    let blob := rest.take n
    if classify blob ≠ .huf2 then ⟨crc, .error ⟨.invalidMagic, i⟩⟩
    else
      let d := decodeSingle bufCap bound (chunkCount origlen size i) crc (blob.drop 4)
      match d.result with
      | .error e => ⟨d.crc, .error e⟩
      | .ok out =>
        let r := decodeChunks bufCap bound origlen size (i + 1) ns d.crc (rest.drop n)
        match r.result with
        | .error e => ⟨r.crc, .error e⟩
        | .ok outs => ⟨r.crc, .ok (out ++ outs)⟩

/-- The size array of a container with `k` chunks (30_encoding.md R86). -/
def chunkSizes (k : Nat) (frame : List Byte) : List Nat :=
  (List.range k).map fun i => fromLe ((frame.drop (15 + 8 * i)).take 8)

/-- `decode_par(S, bounded)` (44_frame.md R195). -/
def decodePar (bufCap : Nat) (bound : Bool) (origlen size : Nat) (crc : BitVec 32) (frame : List Byte) : Decoding :=
  if bound = true ∧ size = 0 then ⟨crc, .error ⟨.invalidInput, 0⟩⟩
  else if frame.length < 15 then ⟨crc, .error ⟨.corruptHeader, frame.length⟩⟩
  else
    let k := fromLe ((frame.drop 7).take 8)
    if (frame.length - 15) / 8 < k then ⟨crc, .error ⟨.corruptHeader, k⟩⟩
    else
      let sizes := chunkSizes k frame
      if sizes.sum ≠ frame.length - 15 - 8 * k then ⟨crc, .error ⟨.corruptHeader, k⟩⟩
      else if bound = true ∧ k ≠ ceilDiv origlen size then ⟨crc, .error ⟨.corruptHeader, k⟩⟩
      else decodeChunks bufCap bound origlen size 0 sizes crc (frame.drop (15 + 8 * k))

/-- The decoding of a frame of variant `v` (44_frame.md R189, the case). -/
def decodeFrame (s : State) (v : Variant) (frame : List Byte) : Decoding :=
  match v with
  | .unrecognised => ⟨s.crcr, .error ⟨.invalidMagic, 0⟩⟩
  | .huf1 => ⟨s.crcr, decodeHuf1 frame⟩
  | .huf2 => decodeSingle s.cap.bufCap (bounded s) s.symCnt.toNat s.crcr (frame.drop 4)
  | .hybrid => decodeHybrid s.cap (bounded s) s.symCnt.toNat s.origLen.toNat s.crcr (frame.drop 8)
  | .par => decodePar s.cap.bufCap (bounded s) s.origLen.toNat s.chunkSz.toNat s.crcr frame
  | .stor => ⟨s.crcr, decodeStor frame⟩

/-- `FRM.DEC` (44_frame.md R189). `RES` and `CRCR` stand after an error (60_exceptions.md R234); the size of the
whole output is checked once, at the end (log entry 13). -/
def execFrmDec (s : State) : Host.Outcome State Fault Refusal :=
  command (encode .frmDec) s fun s =>
    match sourceBytes s with
    | .error e => .raised e (failDst s)
    | .ok frame =>
      let v := classify frame
      let d := decodeFrame s v frame
      let t := { s with res := variantCode v, crcr := d.crc }
      produceDst t (match d.result with
        | .error e => .error e
        | .ok out => checkBytes s.cap.bufCap out)

end Sys2Proof.Machine
end

