-- ==== Sys2Proof/Machine/System.lean ====
section
/-! DEFINITION. The system commands (45_system.md). -/

namespace Sys2Proof.Machine

/-- `SYS.NOP` (45_system.md R220). -/
def execSysNop (s : State) : Host.Outcome State Fault Refusal :=
  command (encode .sysNop) s fun s => .done s

/-- `SYS.CLRERR` (45_system.md R221): executed whether or not an error is pending. -/
def execSysClrerr (s : State) : Host.Outcome State Fault Refusal := .next (clearError s)

/-- `SYS.RESET` (45_system.md R222): executed whether or not an error is pending. -/
def execSysReset (s : State) : Host.Outcome State Fault Refusal := .next (resetBlock s)

/-- `BUF.SWAP` (45_system.md R223). -/
def execBufSwap (s : State) : Host.Outcome State Fault Refusal :=
  command (encode .bufSwap) s fun s =>
    if s.cap.bufCap < s.srcLen.toNat then .raised ⟨.invalidInput, s.srcLen.toNat⟩ s
    else .done { s with src := s.dst, srcLen := s.dstLen, dst := s.src, dstLen := s.srcLen }

end Sys2Proof.Machine
end

