-- ==== Sys2Proof/Machine/Dispatch.lean ====
section
/-! DEFINITION. Dispatch: one arm per command. -/

namespace Sys2Proof.Machine

-- The effect of a command, its error included (60_exceptions.md R233).
def exec (i : Instr) (s : State) : Host.Outcome State Fault Refusal :=
  match i with
  | .sysNop => Sys2Proof.Machine.execSysNop s
  | .sysClrerr => Sys2Proof.Machine.execSysClrerr s
  | .sysReset => Sys2Proof.Machine.execSysReset s
  | .bufSwap => Sys2Proof.Machine.execBufSwap s
  | .bsWinit => Sys2Proof.Machine.execBsWinit s
  | .bsWbit b => Sys2Proof.Machine.execBsWbit b s
  | .bsWbits n => Sys2Proof.Machine.execBsWbits n s
  | .bsFlush => Sys2Proof.Machine.execBsFlush s
  | .bsRinit sel => Sys2Proof.Machine.execBsRinit sel s
  | .bsRbit => Sys2Proof.Machine.execBsRbit s
  | .bsRbits n => Sys2Proof.Machine.execBsRbits n s
  | .crcCalc sel => Sys2Proof.Machine.execCrcCalc sel s
  | .lzComp => Sys2Proof.Machine.execLzComp s
  | .lzDecomp => Sys2Proof.Machine.execLzDecomp s
  | .lzT2b => Sys2Proof.Machine.execLzT2b s
  | .lzB2t => Sys2Proof.Machine.execLzB2t s
  | .hufFreq => Sys2Proof.Machine.execHufFreq s
  | .hufBuild => Sys2Proof.Machine.execHufBuild s
  | .hufCodes => Sys2Proof.Machine.execHufCodes s
  | .hufLens => Sys2Proof.Machine.execHufLens s
  | .hufCanon => Sys2Proof.Machine.execHufCanon s
  | .hufEnc => Sys2Proof.Machine.execHufEnc s
  | .hufDec => Sys2Proof.Machine.execHufDec s
  | .frmEncPlain => Sys2Proof.Machine.execFrmEncPlain s
  | .frmEncHyb => Sys2Proof.Machine.execFrmEncHyb s
  | .frmEncPar => Sys2Proof.Machine.execFrmEncPar s
  | .frmEncStor => Sys2Proof.Machine.execFrmEncStor s
  | .frmDec => Sys2Proof.Machine.execFrmDec s
  | .frmSniff => Sys2Proof.Machine.execFrmSniff s

end Sys2Proof.Machine
end

