-- ==== Sys2Proof/Machine/Port.lean ====
section
/-! DEFINITION. The host port: reads, writes, and the execution of the command written to `CMD`
(20_memory.md R50, R55 to R58, R61; 10_state.md R11). -/

namespace Sys2Proof.Machine

/-- Executing the command word `w` (20_memory.md R57, 60_exceptions.md R233). While an error is pending every
word but `SYS.CLRERR` and `SYS.RESET` is refused (R236): the meaning of each command holds that check, and so
does `illegalCommand`. -/
def execute (w : Word) (s : State) : Host.Outcome State Fault Refusal :=
  match decode w with
  | .ok i => exec i s
  | .error _ => illegalCommand w s

/-- The value of register number `n`, zero-extended to 64 bits; 0 for `CMD` and unassigned numbers
(10_state.md R11 and section 2). -/
def readRegister (n : Nat) (s : State) : BitVec 64 :=
  match n with
  | 0x01 => status s
  | 0x02 => s.err.setWidth 64
  | 0x03 => s.errInfo
  | 0x04 => s.errCmd.setWidth 64
  | 0x05 => s.ctl.setWidth 64
  | 0x06 => s.arg0
  | 0x07 => s.res
  | 0x08 => s.window.setWidth 64
  | 0x09 => s.lookahead.setWidth 64
  | 0x0A => s.symCnt
  | 0x0B => s.origLen
  | 0x0C => s.chunkSz
  | 0x0D => s.srcLen
  | 0x0E => s.dstLen
  | 0x0F => s.crcr.setWidth 64
  | 0x10 => s.wLen
  | 0x11 => s.wAcc.setWidth 64
  | 0x12 => s.wN.setWidth 64
  | 0x13 => s.rSel.setWidth 64
  | 0x14 => s.rByte
  | 0x15 => s.rBit.setWidth 64
  | 0x16 => s.tokCnt
  | 0x17 => s.nodeCnt.setWidth 64
  | 0x18 => s.root.setWidth 64
  | _ => 0#64

/-- The state after a host write of `v` to register number `n` other than `CMD`: the low bits that fit are
stored; read-only and unassigned numbers are ignored (10_state.md R11). -/
def writeRegister (n : Nat) (v : BitVec 64) (s : State) : State :=
  match n with
  | 0x05 => { s with ctl := v.setWidth 1 }
  | 0x06 => { s with arg0 := v }
  | 0x08 => { s with window := v.setWidth 16 }
  | 0x09 => { s with lookahead := v.setWidth 16 }
  | 0x0A => { s with symCnt := v }
  | 0x0B => { s with origLen := v }
  | 0x0C => { s with chunkSz := v }
  | 0x0D => { s with srcLen := v }
  | 0x16 => { s with tokCnt := v }
  | _ => s

/-- What a host read of byte `a` of a buffer returns: the byte below the length, any value at or beyond it
(20_memory.md R55; FREE VALUE, log entry 4), 0 outside the space (R61). -/
def readBuffer (b : Buffer) (a : Nat) (s : State) : BitVec 64 :=
  if s.cap.bufCap ≤ a then 0#64
  else if a < bufferLen s b then (bufferByte s b a).setWidth 64
  else (Config.freeByte s.draws b.space a).setWidth 64

/-- What a host read of entry `i` of a 256-entry table returns; 0 outside the space (20_memory.md R61). -/
def readTable {α : Type} (t : Table α) (i : Nat) (f : α → HostValue) : HostValue :=
  if i < 256 then f (t.get (BitVec.ofNat 8 i)) else .word 0#64

/-- `HostRead(space, index)` (20_memory.md R55, R61). An invalid entry of `NODE` or `TOK` returns any value
(FREE VALUE, log entry 4). -/
def hostRead (space index : Nat) (s : State) : HostValue :=
  match space with
  | 0 => .word (readRegister index s)
  | 1 => .word (readBuffer .src index s)
  | 2 => .word (readBuffer .dst index s)
  | 3 => .word (readBuffer .bsw index s)
  | 4 => readTable s.freq index .word
  | 5 => readTable s.len index fun v => .word (v.setWidth 64)
  | 6 => readTable s.tcode index .code
  | 7 => readTable s.code index .code
  | 8 =>
    if Config.nodeCap ≤ index then .word 0#64
    else if index < s.nodeCnt.toNat then .node (nodeAt s index)
    else .node (Config.freeNode s.draws index)
  | 9 =>
    if s.cap.tokCap ≤ index then .word 0#64
    else if index < s.tokCnt.toNat then .token (tokenAt s index)
    else .token (Config.freeToken s.draws index)
  | _ => .word 0#64

/-- The state after `HostWrite(space, index, value)` to a location other than `CMD` (20_memory.md R56, R61): the
writable spaces are `REG`, `SRC`, `FREQ`, `LEN` and `TOK`. A value that is not of the space's unit is ignored
(log entry 8). -/
def hostStore (space index : Nat) (value : HostValue) (s : State) : State :=
  match space, value with
  | 0, .word v => writeRegister index v s
  | 1, .word v => if index < s.cap.bufCap then { s with src := Sparse.put s.src index (v.setWidth 8) } else s
  | 4, .word v => if index < 256 then { s with freq := s.freq.put (BitVec.ofNat 8 index) v } else s
  | 5, .word v => if index < 256 then { s with len := s.len.put (BitVec.ofNat 8 index) (v.setWidth 8) } else s
  | 9, .token t => if index < s.cap.tokCap then { s with tok := Sparse.put s.tok index t } else s
  | _, _ => s

/-- The command word of a host write, when it is a write to `CMD`: `HostWrite(REG, 0x00, c)`, the low 32 bits
(20_memory.md R57). -/
def commandWord (space index : Nat) (value : HostValue) : Option Word :=
  match space, index, value with
  | 0, 0, .word v => some (v.setWidth 32)
  | _, _, _ => none

/-- `HostWrite(space, index, value)` (20_memory.md R56, R57). -/
def hostWrite (space index : Nat) (value : HostValue) (s : State) : Host.Outcome State Fault Refusal :=
  match commandWord space index value with
  | some w => execute w s
  | none => .next (hostStore space index value s)

/-- The port accepts one move (20_memory.md R55 to R58), or the hardware reset is applied
(70_reset_and_hazards.md R260). -/
def accept (m : Input) (s : State) : Host.Outcome State Fault Refusal :=
  match m with
  | .read space index => .next { s with answer := hostRead space index s }
  | .write space index value => hostWrite space index value s
  | .hardReset => .next (resetBlock s)

/-- The state in which the next move is accepted: the move is taken off the list and the free values are drawn
afresh (log entries 1, 4). -/
def takeInput (rest : List Input) (s : State) : State := { s with inputs := rest, draws := s.draws + 1 }

/-- One step of the total order of 20_memory.md R58. Without a move nothing happens (60_exceptions.md R239). -/
def stepInput (s : State) : Host.Outcome State Fault Refusal :=
  match s.inputs with
  | [] => .next s
  | m :: rest => accept m (takeInput rest s)

end Sys2Proof.Machine
end

