-- ==== Sys2Proof/Machine/Step.lean ====
section
/-! DEFINITION. One step of the machine, and the state in which the next step runs a given command. -/

namespace Sys2Proof.Machine

/-- One step: the next host move, in the order in which the port accepts them (20_memory.md R58). -/
def step (s : State) : Host.Outcome State Fault Refusal := stepInput s

/-- `s` with the command whose bits are `w` written by the host to `CMD` as the very next move: this is where
the block takes its commands from (10_state.md R12, R15; log entry 2). -/
def State.withFetchWord (s : State) (nbits w : Nat) : State :=
  { s with inputs := .write 0 0 (.word (BitVec.ofNat 64 (w % 2 ^ nbits % 2 ^ 32))) :: s.inputs }

end Sys2Proof.Machine
end

