-- ==== Sys2Proof/Safety.lean ====
section
/-! DEFINITION. What counts as a good state and a good run, in the terms the claims use. -/

namespace Sys2Proof.Machine

/-- No error is pending, so the block executes commands (60_exceptions.md R236). -/
abbrev Ready (s : State) : Prop := s.err = 0#8

/-- The commands `is` executed one after the other. -/
def execList : List Instr → State → Host.Outcome State Fault Refusal
  | [], s => .next s
  | i :: is, s => match exec i s with
    | .next t => execList is t
    | .fault r => .fault r
    | .refused r => .refused r

/-- Every index of a sparse store is below `n`. -/
abbrev Sparse.Below {α : Type} (n : Nat) (m : Sparse α) : Prop := ∀ p ∈ m, p.1 < n

/-- The buffers, the token table and the node arena are canonical and inside their capacities, the lengths and the
count the block itself writes are too, and the root is a valid node or absent (10_state.md R28, R33 to R36, R41, R42;
20_memory.md R62). -/
structure MemoryInv (s : State) : Prop where
  capValid : s.cap.Valid
  srcWf : Memory.wf s.src = true
  srcBelow : Sparse.Below (α := Byte) s.cap.bufCap s.src
  dstWf : Memory.wf s.dst = true
  dstBelow : Sparse.Below (α := Byte) s.cap.bufCap s.dst
  bswWf : Memory.wf s.bsw = true
  bswBelow : Sparse.Below (α := Byte) s.wLen.toNat s.bsw
  tokWf : Sparse.rising s.tok = true
  tokBelow : Sparse.Below s.cap.tokCap s.tok
  nodeWf : Sparse.rising s.node = true
  nodeBelow : Sparse.Below Config.nodeCap s.node
  nodeCntLe : s.nodeCnt.toNat ≤ Config.nodeCap
  rootValid : s.root = Config.none10 ∨ s.root.toNat < s.nodeCnt.toNat
  dstLenLe : s.dstLen.toNat ≤ s.cap.bufCap
  wLenLe : s.wLen.toNat ≤ s.cap.bufCap

/-- The writer's invariant: the bits of `W_ACC` below those already written are 0 (10_state.md R30), and the
completed bytes fit (10_state.md R36). -/
structure WriterInv (s : State) : Prop where
  accLow : s.wAcc.toNat % 2 ^ (8 - s.wN.toNat) = 0
  lenLe : s.wLen.toNat ≤ s.cap.bufCap

/-- The error registers: codes above 10 never occur, and without a pending error the detail and the command
word are 0 (60_exceptions.md R231; 10_state.md R18, R19). -/
structure ErrorInv (s : State) : Prop where
  codeLe : s.err.toNat ≤ 10
  infoZero : s.err = 0#8 → s.errInfo = 0#64
  cmdZero : s.err = 0#8 → s.errCmd = 0#32

/-- No code of the table is a prefix of the code of another symbol (43_huffman.md R161, R167). -/
def PrefixFree (c : Table CodeEntry) : Prop :=
  ∀ a b : Byte, a ≠ b → (c.get a).len ≠ 0#8 → (c.get b).len ≠ 0#8 → ¬ codeBits (c.get a) <+: codeBits (c.get b)

/-- Every code is a natural number below `2^len` (10_state.md R39). -/
def CodesFit (c : Table CodeEntry) : Prop := ∀ a : Byte, (c.get a).bits < 2 ^ (c.get a).len.toNat

/-- The bit sequence the writer holds (40_bitstream.md R100): the completed bytes, then the pending bits
`W_ACC[7], W_ACC[6], ...`. -/
def writerStream (s : State) : List Bool :=
  bitsOf (bufferBytes s .bsw) ++ (bitsOfByte s.wAcc).take s.wN.toNat

/-- The writer has room for `m` more bits: the bytes they complete fit `BUF_CAP`. -/
abbrev RoomFor (m : Nat) (s : State) : Prop := s.wLen.toNat + (s.wN.toNat + m) / 8 ≤ s.cap.bufCap

/-- The number a bit string writes, most significant bit first. -/
def bitsValue (bits : List Bool) : Nat := bits.foldl (fun v b => 2 * v + b.toNat) 0

/-- The node a path leads to from node `i`: the left child for a 0, the right child for a 1
(43_huffman.md R156). -/
def walkTree (arena : List Node) : Nat → List Bool → Option Node
  | i, [] => arena[i]?
  | i, b :: path => match arena[i]? with
    | none => none
    | some n => match n.kind with
      | .leaf => none
      | .internal => walkTree arena (if b then n.right.toNat else n.left.toNat) path

/-- The sum of `2^(-len)` over the coded symbols, times `2^255` (43_huffman.md R161). -/
def kraftSum (l : Table (BitVec 8)) : Nat :=
  (allSymbols.map fun x => if l.get x = 0#8 then 0 else 2 ^ (255 - (l.get x).toNat)).sum

/-- Two states that differ at most in what lies at or beyond the lengths and counts: bytes of `SRC`, `DST` and
`BSW`, entries of `TOK` and `NODE` (93_implementation_defined.md I1). -/
structure SameBelow (s t : State) : Prop where
  regs : t = { s with src := t.src, dst := t.dst, bsw := t.bsw, tok := t.tok, node := t.node }
  src : ∀ a < s.srcLen.toNat, Sparse.get? (α := Byte) s.src a = Sparse.get? (α := Byte) t.src a
  dst : ∀ a < s.dstLen.toNat, Sparse.get? (α := Byte) s.dst a = Sparse.get? (α := Byte) t.dst a
  bsw : ∀ a < s.wLen.toNat, Sparse.get? (α := Byte) s.bsw a = Sparse.get? (α := Byte) t.bsw a
  tok : ∀ i < s.tokCnt.toNat, Sparse.get? s.tok i = Sparse.get? t.tok i
  node : ∀ i < s.nodeCnt.toNat, Sparse.get? s.node i = Sparse.get? t.node i

end Sys2Proof.Machine
end

