-- ==== Sys2Proof/Certificates/Slice0/Obligations.lean ====
section
/-! DEFINITION. The statements for the provers. Each docstring names the rules of spec/ it formalises. -/

open Sys2Proof Sys2Proof.Machine

/-- The assigned opcodes (30_encoding.md R71). -/
def Sys2Proof.Claims.assignedOpcodes : List (BitVec 8) :=
  [0x00#8, 0x01#8, 0x02#8, 0x03#8, 0x10#8, 0x11#8, 0x12#8, 0x13#8, 0x14#8, 0x15#8, 0x16#8, 0x20#8,
    0x30#8, 0x31#8, 0x32#8, 0x33#8, 0x40#8, 0x41#8, 0x42#8, 0x43#8, 0x44#8, 0x45#8, 0x46#8, 0x50#8, 0x51#8, 0x52#8]

/-- The must-be-zero bits of `imm` for an opcode (30_encoding.md R72). -/
def Sys2Proof.Claims.reservedImm (op : BitVec 8) : BitVec 8 :=
  if op = 0x11#8 then 0xFE#8
  else if op = 0x12#8 ∨ op = 0x16#8 then 0x80#8
  else if op = 0x14#8 ∨ op = 0x20#8 ∨ op = 0x50#8 then 0xFC#8
  else 0xFF#8

/-- The word has an unassigned opcode, a non-zero `z` field, or a must-be-zero bit of `imm` set
(30_encoding.md R73). -/
def Sys2Proof.Claims.IllegalBits (w : Word) : Prop :=
  w.extractLsb' 24 8 ∉ Sys2Proof.Claims.assignedOpcodes ∨ w.extractLsb' 8 16 ≠ 0#16 ∨
    w.extractLsb' 0 8 &&& Sys2Proof.Claims.reservedImm (w.extractLsb' 24 8) ≠ 0#8

/-- The state in which a step accepts the move taken off the list (the model's own bookkeeping, log entries 1
and 4). -/
abbrev Sys2Proof.Claims.accepting (rest : List Input) (s : State) : State :=
  { s with inputs := rest, draws := s.draws + 1 }

/-- `s` with the error `code`, `info` of command word `w` taken (60_exceptions.md R233). -/
abbrev Sys2Proof.Claims.errored (code : BitVec 8) (info : BitVec 64) (w : Word) (s : State) : State :=
  { s with err := code, errInfo := info, errCmd := w }

/-- `s` with `DST` emptied (60_exceptions.md R234). -/
abbrev Sys2Proof.Claims.emptied (s : State) : State := { s with dst := [], dstLen := 0#64 }

/-- The frame of a coded stream: magic, length table, CRC of the payload, payload (30_encoding.md R82, R83). -/
abbrev Sys2Proof.Claims.frameOf (magic stream : List Byte) (c : Table CodeEntry) : List Byte :=
  magic ++ (streamLengths stream).entries ++ toLe 4 (crc32 (packBits (streamBits c stream))).toNat ++
    packBits (streamBits c stream)

/-- `s` with exactly the bytes `out` in `DST` (10_state.md R35). -/
abbrev Sys2Proof.Claims.produced (out : List Byte) (s : State) : State :=
  { s with dst := Sparse.ofList out, dstLen := BitVec.ofNat 64 out.length }

/-- The symbol has a length in `l`, so it takes part in the canonical assignment (43_huffman.md R160). -/
abbrev Sys2Proof.Claims.Coded (l : Table (BitVec 8)) (x : Byte) : Prop := l.get x ≠ 0#8

/-- The order of the canonical assignment: by length, then by symbol (43_huffman.md R160). -/
abbrev Sys2Proof.Claims.Earlier (l : Table (BitVec 8)) (x y : Byte) : Prop :=
  (l.get x).toNat < (l.get y).toNat ∨ ((l.get x).toNat = (l.get y).toNat ∧ x.toNat < y.toNat)

/-- The values `code` are those of 43_huffman.md R160: 0 for the first coded symbol, and for each next one the value
before plus 1, shifted left by the growth of the length. -/
def Sys2Proof.Claims.CanonicalValues (l : Table (BitVec 8)) (code : Byte → Nat) : Prop :=
  (∀ y : Byte, Coded l y → (∀ x : Byte, Coded l x → ¬ Earlier l x y) → code y = 0) ∧
    ∀ x y : Byte, Coded l x → Coded l y → Earlier l x y →
      (∀ z : Byte, Coded l z → ¬ (Earlier l x z ∧ Earlier l z y)) →
      code y = (code x + 1) * 2 ^ ((l.get y).toNat - (l.get x).toNat)

open Sys2Proof.Claims

/-! ### Encoding and the step -/

/-- 30_encoding.md R70 to R72: every command decodes from its own word, with every operand its field admits, and
every legal word is the word of the command it decodes to. -/
def Obligations.DecodeAndEncodeAgree : Prop :=
  (∀ i : Instr, i.wf = true → decode (encode i) = .ok i) ∧
    ∀ (w : Word) (i : Instr), decode w = .ok i → i.wf = true ∧ encode i = w

/-- 30_encoding.md R71, R72: words written out from the map, one of each family at least. -/
def Obligations.SpecWordsDecode : Prop :=
  decode 0x03000000#32 = .ok .bufSwap ∧ decode 0x11000001#32 = .ok (.bsWbit 1) ∧
    decode 0x12000009#32 = .ok (.bsWbits 9) ∧ decode 0x14000002#32 = .ok (.bsRinit 2) ∧
    decode 0x16000041#32 = .ok (.bsRbits 65) ∧ decode 0x20000003#32 = .ok (.crcCalc 3) ∧
    decode 0x33000000#32 = .ok .lzB2t ∧ decode 0x46000000#32 = .ok .hufDec ∧
    decode 0x50000002#32 = .ok .frmEncPar ∧ decode 0x52000000#32 = .ok .frmSniff

/-- 30_encoding.md R73, 60_exceptions.md R240: the illegal words are exactly those with an unassigned opcode, a
non-zero `z` or a must-be-zero bit set; executing one with no error pending records `IllegalCommand(0)` and the
word, and changes nothing else. -/
def Obligations.IllegalWordsRaiseIllegalCommand : Prop :=
  ∀ w : Word,
    (IllegalBits w → ∀ s : State, Ready s → execute w s = .next (errored 10#8 0#64 w s)) ∧
      (¬ IllegalBits w → ∃ i : Instr, i.wf = true ∧ decode w = .ok i)

/-- 20_memory.md R57: when the next move is a write of `v` to `CMD`, the step executes the command word
`v[31:0]`; a legal word is executed as the command it decodes to. The step takes the move off the list and draws
the free values afresh (log entries 1, 4). -/
def Obligations.StepRunsDecodedCommand : Prop :=
  ∀ (s : State) (v : BitVec 64) (rest : List Input), s.inputs = .write 0 0 (.word v) :: rest →
    step s = execute (v.setWidth 32) (accepting rest s) ∧
      ∀ i : Instr, decode (v.setWidth 32) = .ok i → step s = exec i (accepting rest s)

/-- 20_memory.md R55, R56, R58; 60_exceptions.md R239; 70_reset_and_hazards.md R260: the other steps. Without a
move nothing happens; a read changes nothing of the block; a write other than to `CMD` is the store; the hardware
reset has the effect of `SYS.RESET`. The model's choice, and no rule of the spec: the list of moves and the draw counter
that advances with each (log entries 1, 4), the field `answer` (log entry 7), and the hardware reset as a move between two
commands (log entry 19). -/
def Obligations.StepOfOtherMoves : Prop :=
  (∀ s : State, s.inputs = [] → step s = .next s) ∧
    (∀ (s : State) (rest : List Input) (space index : Nat), s.inputs = .read space index :: rest →
      step s = .next { accepting rest s with answer := hostRead space index (accepting rest s) }) ∧
    (∀ (s : State) (rest : List Input) (space index : Nat) (v : HostValue),
      s.inputs = .write space index v :: rest → ¬ (space = 0 ∧ index = 0) →
      step s = .next (hostStore space index v (accepting rest s))) ∧
    ∀ (s : State) (rest : List Input), s.inputs = .hardReset :: rest →
      step s = exec .sysReset (accepting rest s)

/-- 60_exceptions.md R238, 70_reset_and_hazards.md R263: no state stops the block; every step answers a next
state. -/
def Obligations.NoStepStops : Prop := ∀ s : State, ∃ t : State, step s = .next t

/-! ### The host port -/

/-- 10_state.md R11, R15, R16: what a host read of each register number returns, `STATUS` computed from `ERR`,
`ROOT`, `W_N` and the reader; 0 for `CMD` and for unassigned numbers. -/
def Obligations.RegisterReads : Prop :=
  ∀ (s : State) (n : Nat), s.rSel ≠ 3#2 →
    hostRead 0 n s = .word ([0#64,
      (if s.err = 0#8 then 0#64 else 1#64) + (if s.root = 0x3FF#10 then 0#64 else 2#64) +
        (if s.wN = 0#3 then 0#64 else 4#64) +
        (if ([s.srcLen, s.dstLen, s.wLen].getD s.rSel.toNat 0#64).toNat ≤ s.rByte.toNat then 8#64 else 0#64),
      s.err.setWidth 64, s.errInfo, s.errCmd.setWidth 64, s.ctl.setWidth 64, s.arg0, s.res,
      s.window.setWidth 64, s.lookahead.setWidth 64, s.symCnt, s.origLen, s.chunkSz, s.srcLen, s.dstLen,
      s.crcr.setWidth 64, s.wLen, s.wAcc.setWidth 64, s.wN.setWidth 64, s.rSel.setWidth 64, s.rByte,
      s.rBit.setWidth 64, s.tokCnt, s.nodeCnt.setWidth 64, s.root.setWidth 64].getD n 0#64)

/-- 10_state.md R11, 20_memory.md R56: a host write to a writable register stores the low bits that fit and no
other register reads differently (but for the view `STATUS`); a write to any other number than `CMD` is ignored. -/
def Obligations.RegisterWrites : Prop :=
  ∀ (s : State) (v : BitVec 64) (n : Nat), n ≠ 0 →
    (∀ k : Nat, (n, k) ∈ [(0x05, 1), (0x06, 64), (0x08, 16), (0x09, 16), (0x0A, 64), (0x0B, 64), (0x0C, 64),
        (0x0D, 64), (0x16, 64)] →
      ∃ t : State, hostWrite 0 n (.word v) s = .next t ∧
        hostRead 0 n t = .word (BitVec.ofNat 64 (v.toNat % 2 ^ k)) ∧
        (∀ m : Nat, m ≠ n → m ≠ 0x01 → hostRead 0 m t = hostRead 0 m s) ∧
        t = { s with ctl := t.ctl, arg0 := t.arg0, window := t.window, lookahead := t.lookahead,
                     symCnt := t.symCnt, origLen := t.origLen, chunkSz := t.chunkSz, srcLen := t.srcLen,
                     tokCnt := t.tokCnt }) ∧
      (n ∉ [0x05, 0x06, 0x08, 0x09, 0x0A, 0x0B, 0x0C, 0x0D, 0x16] → hostWrite 0 n (.word v) s = .next s)

/-- 20_memory.md R50, R56, R61: a host write to `SRC`, `FREQ`, `LEN` or `TOK` inside the space stores that one
byte or entry and nothing else; writes to read-only spaces, to other spaces and outside a space are ignored, and
reads outside return 0. 20_memory.md R55: a host read returns the byte below the buffer's length, the entry of a 256-entry
table, the node below `NODE_CNT`, the token below `TOK_CNT`. -/
def Obligations.SpaceWrites : Prop :=
  (∀ (s : State) (i : Nat) (v : BitVec 64), i < s.cap.bufCap → ∃ t : State,
      hostWrite 1 i (.word v) s = .next t ∧ t = { s with src := t.src } ∧
      Sparse.get? (α := Byte) t.src i = some (v.setWidth 8) ∧
      ∀ a : Nat, a ≠ i → Sparse.get? (α := Byte) t.src a = Sparse.get? (α := Byte) s.src a) ∧
    (∀ (s : State) (i : Nat) (v : BitVec 64), i < 256 → ∃ t : State,
      hostWrite 4 i (.word v) s = .next t ∧ t = { s with freq := t.freq } ∧
      ∀ x : Byte, t.freq.get x = if x.toNat = i then v else s.freq.get x) ∧
    (∀ (s : State) (i : Nat) (v : BitVec 64), i < 256 → ∃ t : State,
      hostWrite 5 i (.word v) s = .next t ∧ t = { s with len := t.len } ∧
      ∀ x : Byte, t.len.get x = if x.toNat = i then v.setWidth 8 else s.len.get x) ∧
    (∀ (s : State) (i : Nat) (k : Token), i < s.cap.tokCap → ∃ t : State,
      hostWrite 9 i (.token k) s = .next t ∧ t = { s with tok := t.tok } ∧
      Sparse.get? t.tok i = some k ∧ ∀ a : Nat, a ≠ i → Sparse.get? t.tok a = Sparse.get? s.tok a) ∧
    (∀ (s : State) (space i : Nat) (v : HostValue), space ≠ 0 →
      (space ∉ [1, 4, 5, 9] ∨ ((space, i) ∈ [(1, i), (4, i), (5, i), (9, i)] ∧
        [s.cap.bufCap, 0, 0, 256, 256, 0, 0, 0, s.cap.tokCap].getD (space - 1) 0 ≤ i)) →
      hostWrite space i v s = .next s) ∧
    (∀ (s : State) (space i : Nat),
      (9 < space ∨ (1 ≤ space ∧ [s.cap.bufCap, s.cap.bufCap, s.cap.bufCap, 256, 256, 256, 256, 511,
        s.cap.tokCap].getD (space - 1) 0 ≤ i)) →
      hostRead space i s = .word 0#64) ∧
    (∀ (s : State) (a : Nat) (b : Byte), a < s.cap.bufCap →
      (a < s.srcLen.toNat → Sparse.get? (α := Byte) s.src a = some b → hostRead 1 a s = .word (b.setWidth 64)) ∧
      (a < s.dstLen.toNat → Sparse.get? (α := Byte) s.dst a = some b → hostRead 2 a s = .word (b.setWidth 64)) ∧
      (a < s.wLen.toNat → Sparse.get? (α := Byte) s.bsw a = some b → hostRead 3 a s = .word (b.setWidth 64))) ∧
    (∀ (s : State) (x : Byte),
      hostRead 4 x.toNat s = .word (s.freq.get x) ∧ hostRead 5 x.toNat s = .word ((s.len.get x).setWidth 64) ∧
        hostRead 6 x.toNat s = .code (s.tcode.get x) ∧ hostRead 7 x.toNat s = .code (s.code.get x)) ∧
    (∀ (s : State) (i : Nat) (n : Node), i < 511 → i < s.nodeCnt.toNat → Sparse.get? s.node i = some n →
      hostRead 8 i s = .node n) ∧
    ∀ (s : State) (i : Nat) (k : Token), i < s.cap.tokCap → i < s.tokCnt.toNat → Sparse.get? s.tok i = some k →
      hostRead 9 i s = .token k

/-! ### Errors -/

/-- 60_exceptions.md R236: while an error is pending a word other than `SYS.CLRERR` and `SYS.RESET` has no effect
at all, legal or not. -/
def Obligations.RefusedWhileErrorPending : Prop :=
  ∀ (s : State) (w : Word), ¬ Ready s → w ≠ 0x01000000#32 → w ≠ 0x02000000#32 → execute w s = .next s

/-- 60_exceptions.md R233, R231: a command that leaves an error pending has recorded its own word, and the code is
one of 1 to 9; a command that leaves none pending, but for `SYS.CLRERR` and `SYS.RESET`, has not touched `ERRINFO` and
`ERRCMD`. -/
def Obligations.ErrorRecordsTheCommandWord : Prop :=
  ∀ (i : Instr) (s t : State), Ready s → exec i s = .next t →
    (¬ Ready t → t.errCmd = encode i ∧ 1 ≤ t.err.toNat ∧ t.err.toNat ≤ 9) ∧
      (Ready t → i ≠ .sysClrerr → i ≠ .sysReset → t.errInfo = s.errInfo ∧ t.errCmd = s.errCmd)

/-- 10_state.md R27, 60_exceptions.md R232, R234: every command that reads `SRC`, and `BUF.SWAP`, raises
`InvalidInput(SRC_LEN)` when `SRC_LEN > BUF_CAP`; so do the reader's commands when the reader is over `SRC`. The
commands that produce `DST` empty it; nothing else changes. That this check comes first also for `BS.RBITS n` with `n`
above 64 is the model's reading (log entry 9). -/
def Obligations.SourceLengthBeyondCapacityRaises : Prop :=
  ∀ (s : State) (n : Nat), Ready s → s.cap.bufCap < s.srcLen.toNat →
    (∀ i ∈ [.bufSwap, .crcCalc 0, .lzComp, .lzB2t, .hufFreq, .hufEnc, .frmSniff],
      exec i s = .next (errored 8#8 s.srcLen (encode i) s)) ∧
    (∀ i ∈ [.frmEncPlain, .frmEncHyb, .frmEncPar, .frmEncStor, .frmDec],
      exec i s = .next (errored 8#8 s.srcLen (encode i) (emptied s))) ∧
    (s.rSel = 0#2 →
      (∀ i ∈ [.bsRbit, .bsRbits n], exec i s = .next (errored 8#8 s.srcLen (encode i) s)) ∧
        exec .hufDec s = .next (errored 8#8 s.srcLen (encode .hufDec) (emptied s)))

/-- 30_encoding.md R72, 40_bitstream.md R103, R106, R108, 41_crc32.md R122: an operand out of range raises
`InvalidInput` of that operand and changes nothing else. For `BS.RBITS` the check of `SRC_LEN` comes first (log
entry 9). -/
def Obligations.OperandOutOfRangeRaises : Prop :=
  ∀ (s : State) (n : Nat), Ready s → 64 < n → n < 128 →
    exec (.bsWbits n) s = .next (errored 8#8 (BitVec.ofNat 64 n) (encode (.bsWbits n)) s) ∧
      (readerBlocked s = false →
        exec (.bsRbits n) s = .next (errored 8#8 (BitVec.ofNat 64 n) (encode (.bsRbits n)) s)) ∧
      exec (.bsRinit 3) s = .next (errored 8#8 3#64 0x14000003#32 s) ∧
      exec (.crcCalc 3) s = .next (errored 8#8 3#64 0x20000003#32 s)

/-! ### System commands -/

/-- 45_system.md R220, R221: `SYS.NOP` changes nothing, error pending or not; `SYS.CLRERR` clears the three error
registers and nothing else, error pending or not, and `STATUS.ERRV` is then 0. -/
def Obligations.NopAndClearError : Prop :=
  (encode .sysNop = 0x00000000#32 ∧ encode .sysClrerr = 0x01000000#32) ∧ ∀ s : State,
    exec .sysNop s = .next s ∧
      ∃ t : State, exec .sysClrerr s = .next t ∧ t = errored 0#8 0#64 0#32 s ∧ errv t = false

/-- 45_system.md R222, 10_state.md R44: `SYS.RESET`, error pending or not, puts every register, buffer and table at
its reset value (buffers and arenas hold nothing specified), exactly as the hardware reset does, and `STATUS` then
reads 8. The model's choice, and no rule of the spec: that what is unspecified is not listed (log entry 4), and that the
capacities and the model's own fields stay (log entries 3, 18). -/
def Obligations.SysResetGivesResetValues : Prop :=
  encode .sysReset = 0x02000000#32 ∧ ∀ s : State, ∃ t : State,
    exec .sysReset s = .next t ∧ accept .hardReset s = .next t ∧
    (t.err = 0#8 ∧ t.errInfo = 0#64 ∧ t.errCmd = 0#32 ∧ t.ctl = 1#1 ∧ t.arg0 = 0#64 ∧ t.res = 0#64 ∧
      t.window = 0#16 ∧ t.lookahead = 0#16 ∧ t.symCnt = 0#64 ∧ t.origLen = 0#64 ∧ t.chunkSz = 0#64) ∧
    (t.srcLen = 0#64 ∧ t.dstLen = 0#64 ∧ t.crcr = 0#32 ∧ t.wLen = 0#64 ∧ t.wAcc = 0#8 ∧ t.wN = 0#3 ∧
      t.rSel = 0#2 ∧ t.rByte = 0#64 ∧ t.rBit = 0#3 ∧ t.tokCnt = 0#64 ∧ t.nodeCnt = 0#10 ∧ t.root = 0x3FF#10) ∧
    (∀ x : Byte, t.freq.get x = 0#64 ∧ t.len.get x = 0#8 ∧ t.tcode.get x = ⟨0#8, 0⟩ ∧ t.code.get x = ⟨0#8, 0⟩) ∧
    (t.src = [] ∧ t.dst = [] ∧ t.bsw = [] ∧ t.node = [] ∧ t.tok = []) ∧ hostRead 0 1 t = .word 8#64 ∧
    t.cap = s.cap ∧ t.inputs = s.inputs ∧ t.answer = s.answer ∧ t.draws = s.draws

/-- 45_system.md R223: `BUF.SWAP` exchanges contents and lengths of `SRC` and `DST`, and nothing else; two in a row
restore the first state; `SRC_LEN` beyond the capacity is `InvalidInput(SRC_LEN)`, nothing changed. -/
def Obligations.BufSwapExchangesBuffers : Prop :=
  encode .bufSwap = 0x03000000#32 ∧ ∀ s : State, Ready s →
    (s.srcLen.toNat ≤ s.cap.bufCap →
      exec .bufSwap s = .next { s with src := s.dst, srcLen := s.dstLen, dst := s.src, dstLen := s.srcLen } ∧
        (s.dstLen.toNat ≤ s.cap.bufCap → execList [.bufSwap, .bufSwap] s = .next s)) ∧
      (s.cap.bufCap < s.srcLen.toNat → exec .bufSwap s = .next (errored 8#8 s.srcLen 0x03000000#32 s))

/-! ### The bit stream -/

/-- 40_bitstream.md R101, R106: `BS.WINIT` empties the writer; `BS.RINIT` attaches the reader at `(0,0)` to the
buffer named. -/
def Obligations.WriterAndReaderConstruction : Prop :=
  (∀ s : State, Ready s → ∃ t : State, exec .bsWinit s = .next t ∧ wpend t = false ∧ writerStream t = [] ∧
      t = { s with bsw := t.bsw, wLen := 0#64, wAcc := 0#8, wN := 0#3 }) ∧
    ∀ (s : State) (sel : Nat), Ready s → sel < 3 →
      exec (.bsRinit sel) s = .next { s with rSel := BitVec.ofNat 2 sel, rByte := 0#64, rBit := 0#3 }

/-- 40_bitstream.md R100, R102, R103: with room for the bits, `BS.WBIT b` appends the bit `b`, and `BS.WBITS n` the
`n` low bits of `ARG0`, bit `n - 1` first, to the bit sequence the writer holds; only the writer changes. -/
def Obligations.WriteAppendsBits : Prop :=
  ∀ s : State, Ready s → s.cap.Valid → WriterInv s →
    (∀ b : Nat, b < 2 → RoomFor 1 s → ∃ t : State, exec (.bsWbit b) s = .next t ∧
      writerStream t = writerStream s ++ [b == 1] ∧ WriterInv t ∧
      t = { s with bsw := t.bsw, wLen := t.wLen, wAcc := t.wAcc, wN := t.wN }) ∧
    ∀ n : Nat, n ≤ 64 → RoomFor n s → ∃ t : State, exec (.bsWbits n) s = .next t ∧
      writerStream t = writerStream s ++ (List.range n).map (fun k => s.arg0.getLsbD (n - 1 - k)) ∧ WriterInv t ∧
      t = { s with bsw := t.bsw, wLen := t.wLen, wAcc := t.wAcc, wN := t.wN }

/-- 40_bitstream.md R104: `BS.FLUSH` without pending bits changes nothing; with pending bits and room it pads the
partial byte with zero bits and appends it, and a second flush changes nothing. -/
def Obligations.FlushPadsThePartialByte : Prop :=
  ∀ s : State, Ready s → s.cap.Valid → WriterInv s →
    (s.wN = 0#3 → exec .bsFlush s = .next s) ∧
      (s.wN ≠ 0#3 → s.wLen.toNat < s.cap.bufCap → ∃ t : State, exec .bsFlush s = .next t ∧
        writerStream t = writerStream s ++ List.replicate (8 - s.wN.toNat) false ∧
        t = { s with bsw := t.bsw, wLen := s.wLen + 1#64, wAcc := 0#8, wN := 0#3 } ∧ exec .bsFlush t = .next t)

/-- 40_bitstream.md R102 to R104, 60_exceptions.md R232, R234: a write or flush whose completed bytes do not fit
raises `MemoryError(BUF_CAP)` and leaves the writer as before the command. -/
def Obligations.WriterFullLeavesTheWriter : Prop :=
  ∀ s : State, Ready s → s.cap.Valid → WriterInv s →
    (∀ b : Nat, b < 2 → ¬ RoomFor 1 s →
      exec (.bsWbit b) s = .next (errored 9#8 (BitVec.ofNat 64 s.cap.bufCap) (encode (.bsWbit b)) s)) ∧
    (∀ n : Nat, n ≤ 64 → ¬ RoomFor n s →
      exec (.bsWbits n) s = .next (errored 9#8 (BitVec.ofNat 64 s.cap.bufCap) (encode (.bsWbits n)) s)) ∧
    (s.wN ≠ 0#3 → s.wLen.toNat = s.cap.bufCap →
      exec .bsFlush s = .next (errored 9#8 (BitVec.ofNat 64 s.cap.bufCap) (encode .bsFlush) s))

/-- 40_bitstream.md R105, R107, R108: with enough bits left, `BS.RBIT` and `BS.RBITS n` put the next bits, most
significant first, in `RES` and move the cursor over them; nothing else changes. `BS.RBITS 0` needs no bit. -/
def Obligations.ReadTakesTheNextBits : Prop :=
  ∀ s : State, Ready s → readerBlocked s = false →
    (s.rByte.toNat < readerLen s → exec .bsRbit s = .next { s with
      res := BitVec.ofNat 64 (bitsValue ((remainingBits s).take 1)),
      rByte := BitVec.ofNat 64 ((8 * s.rByte.toNat + s.rBit.toNat + 1) / 8),
      rBit := BitVec.ofNat 3 ((8 * s.rByte.toNat + s.rBit.toNat + 1) % 8) }) ∧
    ∀ n : Nat, n ≤ 64 → (n = 0 ∨ 8 * s.rByte.toNat + s.rBit.toNat + n ≤ 8 * readerLen s) →
      exec (.bsRbits n) s = .next { s with
        res := BitVec.ofNat 64 (bitsValue ((remainingBits s).take n)),
        rByte := BitVec.ofNat 64 ((8 * s.rByte.toNat + s.rBit.toNat + n) / 8),
        rBit := BitVec.ofNat 3 ((8 * s.rByte.toNat + s.rBit.toNat + n) % 8) }

/-- 40_bitstream.md R107, R108, 60_exceptions.md R234: when the bits run out, `StreamExhausted` of the byte
position; `BS.RBIT` changes nothing, `BS.RBITS` has consumed the bits that were there and leaves the cursor at the
end of the buffer, wherever it was before; `RES` is unchanged. That the detail is the old `R_BYTE` when the cursor was
beyond the end of a shortened buffer is the model's reading (log entry 10). -/
def Obligations.ReaderExhaustion : Prop :=
  ∀ s : State, Ready s → readerBlocked s = false →
    (readerLen s ≤ s.rByte.toNat → exec .bsRbit s = .next (errored 1#8 s.rByte (encode .bsRbit) s)) ∧
    ∀ n : Nat, 1 ≤ n → n ≤ 64 → 8 * readerLen s < 8 * s.rByte.toNat + s.rBit.toNat + n →
      exec (.bsRbits n) s = .next (errored 1#8
        (if s.rByte.toNat < readerLen s then BitVec.ofNat 64 (readerLen s) else s.rByte) (encode (.bsRbits n))
        { s with rByte := BitVec.ofNat 64 (readerLen s), rBit := 0#3 })

/-- 40_bitstream.md R109: bits written from an empty writer and flushed are read back in the order written, then
the zero bits of the padding, then `StreamExhausted`; `W_LEN` is the number of bits in bytes, rounded up. -/
def Obligations.BitStreamRoundTrip : Prop :=
  ∀ (s : State) (bs : List Bool), Ready s → s.cap.Valid → bs.length ≤ 8 * s.cap.bufCap →
    ∃ t : State, execList ([.bsWinit] ++ bs.map (fun b => .bsWbit b.toNat) ++ [.bsFlush, .bsRinit 2]) s = .next t ∧
      t.wLen.toNat = (bs.length + 7) / 8 ∧
      (∀ k : Nat, k < 8 * t.wLen.toNat → ∃ u : State, execList (List.replicate (k + 1) .bsRbit) t = .next u ∧
        Ready u ∧ u.res = BitVec.ofNat 64 (bs.getD k false).toNat) ∧
      ∃ u : State, execList (List.replicate (8 * t.wLen.toNat + 1) .bsRbit) t = .next u ∧ u.err = 1#8

/-! ### CRC-32 -/

/-- 41_crc32.md R121, R122: `CRC.CALC` puts the CRC-32 of the selected buffer in `CRCR` and, zero-extended, in
`RES`, and changes nothing else; the engine gives the check value and 0 for the empty sequence. -/
def Obligations.CrcCalcResult : Prop :=
  (∀ (s : State) (sel : Nat) (b : Buffer), Ready s → bufferOf sel = some b →
      (b = .src → s.srcLen.toNat ≤ s.cap.bufCap) →
      exec (.crcCalc sel) s = .next { s with crcr := crc32 (bufferBytes s b),
                                             res := (crc32 (bufferBytes s b)).setWidth 64 }) ∧
    crc32 [0x31#8, 0x32#8, 0x33#8, 0x34#8, 0x35#8, 0x36#8, 0x37#8, 0x38#8, 0x39#8] = 0xCBF43926#32 ∧
    crc32 [] = 0#32

/-- 41_crc32.md R124: two byte sequences that differ in exactly one bit have different CRCs. -/
def Obligations.CrcDetectsOneFlippedBit : Prop :=
  ∀ (pre post : List Byte) (x : Byte) (k : Nat), k < 8 →
    crc32 (pre ++ x :: post) ≠ crc32 (pre ++ (x ^^^ (1#8 <<< k)) :: post)

/-! ### LZ77 -/

/-- 42_lz77.md R134: `LZ.COMP` puts the tokens of `SRC` in `TOK` from entry 0 and their number in `TOK_CNT`; more
tokens than `TOK_CAP` raise `MemoryError` of their number with `TOK_CNT = 0`. That the entries beyond the count stay is
the model's choice (log entry 6). -/
def Obligations.LzCompResult : Prop :=
  ∀ s : State, Ready s → s.cap.Valid → s.srcLen.toNat ≤ s.cap.bufCap →
    let toks := lzCompress (bufferBytes s .src) s.window.toNat s.lookahead.toNat
    (toks.length ≤ s.cap.tokCap → ∃ t : State, exec .lzComp s = .next t ∧
      t = { s with tok := t.tok, tokCnt := t.tokCnt } ∧ t.tokCnt.toNat = toks.length ∧
      (∀ k : Nat, k < toks.length → Sparse.get? t.tok k = toks[k]?) ∧
      ∀ k : Nat, toks.length ≤ k → Sparse.get? t.tok k = Sparse.get? s.tok k) ∧
    (s.cap.tokCap < toks.length → ∃ t : State, exec .lzComp s = .next t ∧
      t = errored 9#8 (BitVec.ofNat 64 toks.length) 0x30000000#32 { s with tok := t.tok, tokCnt := 0#64 })

/-- 42_lz77.md R135, R136: `LZ.DECOMP` puts the replay of the tokens in `DST`; when the replay fails `DST` is emptied
and its error recorded; `TOK_CNT > TOK_CAP` is `InvalidInput(TOK_CNT)`. The replay, token by token after a prefix whose
bytes are `out`: an offset beyond `out`, or a match at offset 0, is `CorruptToken` of the token's index; bytes that do not
fit are `MemoryError(BUF_CAP)`; otherwise the match is copied byte by byte from `offset` bytes behind, and `next` follows,
unless it is the sentinel of bounded mode. In bounded mode a length other than `ORIGLEN` is `DecompressionFailed` of the
length. -/
def Obligations.LzDecompResult : Prop :=
  ∀ s : State, Ready s → s.cap.Valid →
    let cap := s.cap.bufCap
    let toks := (List.range s.tokCnt.toNat).map (tokenAt s)
    let raises := fun (code : BitVec 8) (info : BitVec 64) =>
      exec .lzDecomp s = .next (errored code info 0x31000000#32 (emptied s))
    (s.cap.tokCap < s.tokCnt.toNat → raises 8#8 s.tokCnt) ∧
    (s.tokCnt.toNat ≤ s.cap.tokCap →
      (∀ out : List Byte, lzDecompress cap (s.ctl == 1#1) s.origLen.toNat toks = .ok out →
        exec .lzDecomp s = .next (produced out s)) ∧
      (∀ e : CmdError, lzDecompress cap (s.ctl == 1#1) s.origLen.toNat toks = .error e → e.info < 2 ^ 64 →
        raises (errorCode e.kind) (BitVec.ofNat 64 e.info)) ∧
      (∀ (pre post : List Token) (t : Token) (out : List Byte), toks = pre ++ t :: post →
        lzDecompress cap false 0 pre = .ok out →
        let corrupt := out.length < t.offset.toNat ∨ (t.length ≠ 0#16 ∧ t.offset = 0#16)
        let sentinel := s.ctl = 1#1 ∧ post = [] ∧ t.length ≠ 0#16 ∧ t.next = 0#8 ∧
          out.length + t.length.toNat = s.origLen.toNat
        let copies := fun out' : List Byte => out <+: out' ∧ ∀ j : Nat, j < t.length.toNat →
          out'[out.length + j]? = out'[out.length + j - t.offset.toNat]?
        (corrupt → raises 2#8 (BitVec.ofNat 64 pre.length)) ∧
        (¬ corrupt → (cap < out.length + t.length.toNat ∨ (cap = out.length + t.length.toNat ∧ ¬ sentinel)) →
          raises 9#8 (BitVec.ofNat 64 cap)) ∧
        (¬ corrupt → out.length + t.length.toNat < cap → ∃ out' : List Byte,
          lzDecompress cap false 0 (pre ++ [t]) = .ok out' ∧ copies out' ∧
            out'.length = out.length + t.length.toNat + 1 ∧ out'.getLast? = some t.next) ∧
        (¬ corrupt → out.length + t.length.toNat ≤ cap → sentinel → ∃ out' : List Byte,
          exec .lzDecomp s = .next (produced out' s) ∧ copies out' ∧ out'.length = s.origLen.toNat)) ∧
      ∀ out : List Byte, lzDecompress cap false 0 toks = .ok out →
        (s.ctl ≠ 1#1 ∨ out.length = s.origLen.toNat → exec .lzDecomp s = .next (produced out s)) ∧
        (s.ctl = 1#1 → out.length ≠ s.origLen.toNat →
          ¬ (out.length = s.origLen.toNat + 1 ∧ ∃ t : Token, toks.getLast? = some t ∧ t.length ≠ 0#16 ∧ t.next = 0#8) →
          raises 6#8 (BitVec.ofNat 64 out.length)))

/-- 42_lz77.md R138, R140, 30_encoding.md R81: `LZ.T2B` writes the big-endian 5-byte records of the tokens to
`DST`; `LZ.B2T` reads them from `SRC`; a byte count that is not a multiple of 5 is `CorruptToken`. `TOK_CNT` beyond
`TOK_CAP` is `InvalidInput(TOK_CNT)`; bytes beyond `BUF_CAP` and tokens beyond `TOK_CAP` are `MemoryError` of their
number. -/
def Obligations.TokenSerialisationCommands : Prop :=
  (∀ s : State, Ready s → s.cap.Valid → s.tokCnt.toNat ≤ s.cap.tokCap → 5 * s.tokCnt.toNat ≤ s.cap.bufCap →
    ∃ out : List Byte, exec .lzT2b s = .next (produced out s) ∧ out.length = 5 * s.tokCnt.toNat ∧
      ∀ k : Nat, k < s.tokCnt.toNat →
        (out.drop (5 * k)).take 5 = [(tokenAt s k).offset.extractLsb' 8 8, (tokenAt s k).offset.extractLsb' 0 8,
          (tokenAt s k).length.extractLsb' 8 8, (tokenAt s k).length.extractLsb' 0 8, (tokenAt s k).next]) ∧
  (∀ s : State, Ready s → s.cap.Valid → s.srcLen.toNat ≤ s.cap.bufCap → s.srcLen.toNat % 5 = 0 →
    s.srcLen.toNat / 5 ≤ s.cap.tokCap → ∃ t : State, exec .lzB2t s = .next t ∧
      t = { s with tok := t.tok, tokCnt := t.tokCnt } ∧ t.tokCnt.toNat = s.srcLen.toNat / 5 ∧
      ∀ k : Nat, k < t.tokCnt.toNat → Sparse.get? t.tok k = some
        ⟨bufferByte s .src (5 * k) ++ bufferByte s .src (5 * k + 1),
          bufferByte s .src (5 * k + 2) ++ bufferByte s .src (5 * k + 3), bufferByte s .src (5 * k + 4)⟩) ∧
  (∀ s : State, Ready s → s.srcLen.toNat ≤ s.cap.bufCap → s.srcLen.toNat % 5 ≠ 0 →
    ∃ t : State, exec .lzB2t s = .next t ∧
      t = errored 2#8 (BitVec.ofNat 64 (s.srcLen.toNat / 5)) 0x33000000#32 { s with tok := t.tok, tokCnt := 0#64 }) ∧
  (∀ s : State, Ready s → s.cap.tokCap < s.tokCnt.toNat →
    exec .lzT2b s = .next (errored 8#8 s.tokCnt 0x32000000#32 (emptied s))) ∧
  (∀ s : State, Ready s → s.cap.Valid → s.tokCnt.toNat ≤ s.cap.tokCap → s.cap.bufCap < 5 * s.tokCnt.toNat →
    exec .lzT2b s = .next (errored 9#8 (BitVec.ofNat 64 (5 * s.tokCnt.toNat)) 0x32000000#32 (emptied s))) ∧
  ∀ s : State, Ready s → s.srcLen.toNat ≤ s.cap.bufCap → s.srcLen.toNat % 5 = 0 → s.cap.tokCap < s.srcLen.toNat / 5 →
    ∃ t : State, exec .lzB2t s = .next t ∧
      t = errored 9#8 (BitVec.ofNat 64 (s.srcLen.toNat / 5)) 0x33000000#32 { s with tok := t.tok, tokCnt := 0#64 }

/-- 42_lz77.md R141: the replay of the tokens of `d` gives `d` back in bounded mode with the original length; in
legacy mode it gives `d`, or `d` followed by one byte 0. -/
def Obligations.LzFidelity : Prop :=
  ∀ (d : List Byte) (window lookahead bufCap n : Nat), window < 65536 → lookahead < 65536 →
    (d.length ≤ bufCap → lzDecompress bufCap true d.length (lzCompress d window lookahead) = .ok d) ∧
      (d.length < bufCap → lzDecompress bufCap false n (lzCompress d window lookahead) = .ok d ∨
        lzDecompress bufCap false n (lzCompress d window lookahead) = .ok (d ++ [0#8]))

/-- 42_lz77.md R130 to R133: the length of the match at a distance is the number of bytes that agree, inside the
lookahead and the data; the match chosen at a position is the longest, at the smallest distance that gives it. The tokens
are, position after position, the match chosen there with the byte that follows it (0 at the end of the data), and cover
the data; every token is a literal token or a match token inside the window and the lookahead. -/
def Obligations.LongestNearestMatch : Prop :=
  ∀ (d : List Byte) (window lookahead : Nat), window < 65536 → lookahead < 65536 →
    let toks := lzCompress d window lookahead
    let position := fun i => ((toks.take i).map fun t => t.length.toNat + 1).sum
    (∀ p : Nat, p < d.length →
      let most := min lookahead (d.length - p)
      let len := fun k => matchLen most (d.drop (p - k)) (d.drop p)
      let m := longestMatch d window lookahead p
      (∀ k : Nat, 1 ≤ k → k ≤ min window p →
        len k ≤ most ∧ (∀ j : Nat, j < len k → d[p - k + j]? = d[p + j]?) ∧
          (len k < most → d[p - k + len k]? ≠ d[p + len k]?) ∧ len k ≤ m.1) ∧
        (m.1 ≠ 0 → 1 ≤ m.2 ∧ m.2 ≤ min window p ∧ len m.2 = m.1 ∧ ∀ k : Nat, 1 ≤ k → k < m.2 → len k < m.1)) ∧
    (∀ (i : Nat) (t : Token), toks[i]? = some t → position i < d.length ∧
      t.length.toNat = (longestMatch d window lookahead (position i)).1 ∧
      t.offset.toNat = (longestMatch d window lookahead (position i)).2 ∧
      t.next = d.getD (position i + t.length.toNat) 0#8) ∧
    d.length ≤ position toks.length ∧
    ∀ t ∈ toks,
      (t.length = 0#16 ∧ t.offset = 0#16) ∨
        (t.length ≠ 0#16 ∧ t.offset ≠ 0#16 ∧ t.offset.toNat ≤ window ∧ t.length.toNat ≤ lookahead)

/-- 42_lz77.md R137, R139, R141: reading the records of a token sequence gives the sequence back. -/
def Obligations.TokenBytesRoundTrip : Prop :=
  ∀ toks : List Token, (tokensToBytes toks).length = 5 * toks.length ∧
    bytesToTokens (tokensToBytes toks) = .ok toks

/-! ### Huffman -/

/-- 43_huffman.md R150, R151: `HUF.FREQ` sets every entry of `FREQ` to the number of times the symbol occurs in
`SRC`, and changes nothing else. -/
def Obligations.HufFreqCounts : Prop :=
  ∀ s : State, Ready s → s.cap.Valid → s.srcLen.toNat ≤ s.cap.bufCap →
    ∃ t : State, exec .hufFreq s = .next t ∧ t = { s with freq := t.freq } ∧
      ∀ x : Byte, (t.freq.get x).toNat = (bufferBytes s .src).count x

/-- 43_huffman.md R153, R155: `HUF.BUILD` stores the tree of `FREQ`; a total of `2^64` or more is
`InvalidInput(0)`; an all-zero `FREQ` gives the absent tree. -/
def Obligations.HufBuildResult : Prop :=
  ∀ s : State, Ready s →
    (freqTotal s.freq < 2 ^ 64 → exec .hufBuild s = .next { s with
      node := Sparse.ofList (buildTree s.freq).1, nodeCnt := BitVec.ofNat 10 (buildTree s.freq).1.length,
      root := rootIndex (buildTree s.freq).2 }) ∧
    (2 ^ 64 ≤ freqTotal s.freq → exec .hufBuild s = .next (errored 8#8 0#64 0x41000000#32 s)) ∧
    ((∀ x : Byte, s.freq.get x = 0#64) → ∃ t : State, exec .hufBuild s = .next t ∧
      t.nodeCnt = 0#10 ∧ t.root = 0x3FF#10 ∧ treeFlag t = false)

/-- 43_huffman.md R152, R154: with `k` leaves the arena has `2k - 1` nodes and its root is the last; the first `k` are
leaves, ascending by symbol; every other node is internal, its frequency is the sum of its children's and its key the
smaller of theirs. Its children are the first two, in the order on `(freq, key)`, of the earlier nodes that no earlier
internal node has taken: the first is the left child, the second the right child. -/
def Obligations.BuildTreeShape : Prop :=
  ∀ f : Table (BitVec 64), ∀ k : Nat, k = allSymbols.countP (fun x => f.get x != 0#64) → 1 ≤ k →
    let arena := (buildTree f).1
    let first := fun a b : Node =>
      a.freq.toNat < b.freq.toNat ∨ (a.freq.toNat = b.freq.toNat ∧ a.key.toNat < b.key.toNat)
    let waiting := fun i j : Nat => j < i ∧ ∀ (m : Nat) (n : Node), k ≤ m → m < i → arena[m]? = some n →
      n.left.toNat ≠ j ∧ n.right.toNat ≠ j
    arena.length = 2 * k - 1 ∧ (buildTree f).2 = some (2 * k - 2) ∧
      ∀ (i : Nat) (n : Node), arena[i]? = some n →
        (i < k → n.kind = .leaf ∧ n.freq = f.get n.sym ∧ n.freq ≠ 0#64 ∧ n.key = n.sym ∧
          ∀ (j : Nat) (n' : Node), j < i → arena[j]? = some n' → n'.sym.toNat < n.sym.toNat) ∧
        (k ≤ i → n.kind = .internal ∧ n.left ≠ n.right ∧ waiting i n.left.toNat ∧ waiting i n.right.toNat ∧
          ∃ a b : Node, arena[n.left.toNat]? = some a ∧ arena[n.right.toNat]? = some b ∧ first a b ∧
            n.freq = a.freq + b.freq ∧ n.key.toNat = min a.key.toNat b.key.toNat ∧
            ∀ (j : Nat) (c : Node), waiting i j → j ≠ n.left.toNat → j ≠ n.right.toNat → arena[j]? = some c →
              first b c)

/-- 43_huffman.md R156, R157, R159, R167: `HUF.CODES` writes the tree-order codes, and `CompressionFailed(0)` is raised
when the tree is absent; `HUF.LENS` copies the lengths of `TCODE`; a one-leaf tree has the code "0". After `HUF.BUILD` on
two symbols or more, the code of a symbol of `FREQ` is the path from the root to its leaf, 0 for a left edge and 1 for a
right edge, every other symbol has no code, and no code is a prefix of another. -/
def Obligations.HufCodesAndLens : Prop :=
  (∀ s : State, Ready s → s.root ≠ 0x3FF#10 →
      exec .hufCodes s = .next { s with tcode := treeCodes (arenaOf s) s.root.toNat }) ∧
    (∀ s : State, Ready s → s.root = 0x3FF#10 →
      exec .hufCodes s = .next (errored 7#8 0#64 0x42000000#32 s)) ∧
    (∀ s : State, Ready s → ∃ t : State, exec .hufLens s = .next t ∧ t = { s with len := t.len } ∧
      ∀ x : Byte, t.len.get x = (s.tcode.get x).len) ∧
    (∀ (arena : List Node) (r : Nat) (n : Node), arena[r]? = some n → n.kind = .leaf →
      ∀ x : Byte, (treeCodes arena r).get x = if x = n.sym then ⟨1#8, 0⟩ else ⟨0#8, 0⟩) ∧
    ∀ s : State, Ready s → freqTotal s.freq < 2 ^ 64 →
      2 ≤ allSymbols.countP (fun x => s.freq.get x != 0#64) →
      ∃ t : State, execList [.hufBuild, .hufCodes] s = .next t ∧ Ready t ∧ CodesFit t.tcode ∧ PrefixFree t.tcode ∧
        ∀ x : Byte, (s.freq.get x = 0#64 → t.tcode.get x = ⟨0#8, 0⟩) ∧
          (s.freq.get x ≠ 0#64 → (t.tcode.get x).len ≠ 0#8 ∧ ∃ n : Node,
            walkTree (arenaOf t) t.root.toNat (codeBits (t.tcode.get x)) = some n ∧ n.kind = .leaf ∧ n.sym = x)

/-- 43_huffman.md R160, R162, 60_exceptions.md R232: `HUF.CANON` writes the canonical codes of `LEN`. When a value of the
canonical assignment does not fit its length it raises `CorruptHeader` of the first symbol, in the order of the assignment,
whose value does not, and `CODE` is unchanged. -/
def Obligations.HufCanonResult : Prop :=
  ∀ s : State, Ready s →
    (∀ c : Table CodeEntry, canonical s.len = .ok c → exec .hufCanon s = .next { s with code := c }) ∧
    (∀ e : CmdError, canonical s.len = .error e →
      e.info < 256 ∧ exec .hufCanon s = .next (errored 4#8 (BitVec.ofNat 64 e.info) 0x44000000#32 s)) ∧
    ∀ code : Byte → Nat, CanonicalValues s.len code →
      ((∀ x : Byte, Coded s.len x → code x < 2 ^ (s.len.get x).toNat) → ∃ t : State,
        exec .hufCanon s = .next t ∧ t = { s with code := t.code } ∧
          ∀ x : Byte, t.code.get x = if Coded s.len x then ⟨s.len.get x, code x⟩ else ⟨0#8, 0⟩) ∧
      ∀ x : Byte, Coded s.len x → 2 ^ (s.len.get x).toNat ≤ code x →
        (∀ y : Byte, Coded s.len y → Earlier s.len y x → code y < 2 ^ (s.len.get y).toNat) →
        exec .hufCanon s = .next (errored 4#8 (x.setWidth 64) 0x44000000#32 s)

/-- 43_huffman.md R160, R161: a canonical table has the lengths it was made from; in the order by length, then by symbol,
the first code is 0 and each next code is the one before plus 1, shifted left by the growth of the length; every code fits
its length, and no code is a prefix of another. -/
def Obligations.CanonicalTablesArePrefixFree : Prop :=
  ∀ (l : Table (BitVec 8)) (c : Table CodeEntry), canonical l = .ok c →
    (∀ x : Byte, (c.get x).len = l.get x ∧ (¬ Coded l x → (c.get x).bits = 0)) ∧
      CanonicalValues l (fun x => (c.get x).bits) ∧ CodesFit c ∧ PrefixFree c

/-- 43_huffman.md R161: `canonical(L)` fails exactly when the lengths are over-subscribed (so incomplete tables are
accepted); otherwise the codes are pairwise distinct and none is a prefix of another. -/
def Obligations.CanonicalFailsIffOversubscribed : Prop :=
  ∀ l : Table (BitVec 8), ((∃ e : CmdError, canonical l = .error e) ↔ 2 ^ 255 < kraftSum l) ∧
    ∀ c : Table CodeEntry, canonical l = .ok c → PrefixFree c

/-- 43_huffman.md R164: with a code for every byte of `SRC` and room for the bits, `HUF.ENC` appends the codes in
order to the bit sequence the writer holds; at the first byte without a code it raises `CompressionFailed` of its
index and clears the writer; when the codes do not fit it raises `MemoryError(BUF_CAP)` and clears the writer. -/
def Obligations.HufEncAppendsCodes : Prop :=
  ∀ s : State, Ready s → s.cap.Valid → WriterInv s → s.srcLen.toNat ≤ s.cap.bufCap →
    ((∀ x ∈ bufferBytes s .src, (s.code.get x).len ≠ 0#8) →
      RoomFor ((bufferBytes s .src).flatMap fun x => codeBits (s.code.get x)).length s →
      ∃ t : State, exec .hufEnc s = .next t ∧ WriterInv t ∧
        writerStream t = writerStream s ++ (bufferBytes s .src).flatMap (fun x => codeBits (s.code.get x)) ∧
        t = { s with bsw := t.bsw, wLen := t.wLen, wAcc := t.wAcc, wN := t.wN }) ∧
    (∀ (pre post : List Byte) (x : Byte), bufferBytes s .src = pre ++ x :: post →
      (∀ y ∈ pre, (s.code.get y).len ≠ 0#8) → (s.code.get x).len = 0#8 →
      RoomFor (pre.flatMap fun y => codeBits (s.code.get y)).length s →
      ∃ t : State, exec .hufEnc s = .next t ∧ t = errored 7#8 (BitVec.ofNat 64 pre.length) 0x45000000#32
        { s with bsw := t.bsw, wLen := 0#64, wAcc := 0#8, wN := 0#3 }) ∧
    ∀ pre : List Byte, pre <+: bufferBytes s .src → (∀ y ∈ pre, (s.code.get y).len ≠ 0#8) →
      ¬ RoomFor (pre.flatMap fun y => codeBits (s.code.get y)).length s →
      ∃ t : State, exec .hufEnc s = .next t ∧ t = errored 9#8 (BitVec.ofNat 64 s.cap.bufCap) 0x45000000#32
        { s with bsw := t.bsw, wLen := 0#64, wAcc := 0#8, wN := 0#3 }

/-- 43_huffman.md R165, R166: `HUF.DEC` puts the decoded symbols in `DST` and moves the cursor over the bits the
decoder consumed; a reader over `DST` is `InvalidInput(1)`. The bits to read are those of the reader's buffer from the
cursor on. When they are the codes of `xs` followed by bits that complete no code: legacy mode gives `xs`, the cursor at
the end and the pending candidate discarded; bounded mode gives the first `SYMCNT` symbols, the cursor just after the last
code, and with fewer than `SYMCNT` it is `StreamExhausted(R_BYTE)`, the cursor at the end; a symbol beyond `BUF_CAP` is
`MemoryError(BUF_CAP)`, the cursor just after its code. The code table is prefix-free, as every step keeps it
(`StepKeepsCodePrefixFree`). -/
def Obligations.HufDecResult : Prop :=
  ∀ s : State, Ready s →
    let start := 8 * s.rByte.toNat + s.rBit.toNat
    let bits := remainingBits s
    let moved := fun n : Nat => ({ s with
      rByte := BitVec.ofNat 64 ((start + n) / 8), rBit := BitVec.ofNat 3 ((start + n) % 8) } : State)
    let returns := fun (out : List Byte) (n : Nat) => exec .hufDec s = .next (produced out (moved n))
    let exhausted := fun n : Nat =>
      exec .hufDec s = .next (errored 1#8 (moved n).rByte 0x46000000#32 (emptied (moved n)))
    let full := fun n : Nat =>
      exec .hufDec s = .next (errored 9#8 (BitVec.ofNat 64 s.cap.bufCap) 0x46000000#32 (emptied (moved n)))
    (s.rSel = 1#2 → exec .hufDec s = .next (errored 8#8 1#64 0x46000000#32 (emptied s))) ∧
    (bits.length = 8 * readerLen s - start ∧ ∀ k : Nat, k < bits.length →
      bits[k]? = some ((readerByte s ((start + k) / 8)).getLsbD (7 - (start + k) % 8))) ∧
    (s.rSel ≠ 1#2 → readerBlocked s = false →
      (let d := huffDecode s.code (s.ctl == 1#1) bits s.symCnt.toNat s.cap.bufCap 0 0
       (d.ending = .returned → returns d.out d.used) ∧
       (d.ending = .exhausted → exhausted d.used) ∧
       (d.ending = .full → s.cap.bufCap < 2 ^ 64 → full d.used)) ∧
      (PrefixFree s.code → CodesFit s.code → s.cap.bufCap < 2 ^ 64 → ∀ (xs : List Byte) (tail : List Bool),
        (∀ x ∈ xs, (s.code.get x).len ≠ 0#8) →
        (∀ x : Byte, (s.code.get x).len ≠ 0#8 → ¬ codeBits (s.code.get x) <+: tail) →
        bits = (xs.flatMap fun x => codeBits (s.code.get x)) ++ tail →
        let cap := s.cap.bufCap
        let count := s.symCnt.toNat
        let size := fun n : Nat => ((xs.take n).flatMap fun x => codeBits (s.code.get x)).length
        (s.ctl ≠ 1#1 →
          (xs.length ≤ cap → returns xs bits.length) ∧ (cap < xs.length → full (size (cap + 1)))) ∧
        (s.ctl = 1#1 →
          (count ≤ xs.length → count ≤ cap → returns (xs.take count) (size count)) ∧
          (xs.length < count → xs.length ≤ cap → exhausted bits.length) ∧
          (cap < count → cap < xs.length → full (size (cap + 1))))))

/-- 43_huffman.md R163 to R166, R170: with a canonical code table that covers the bytes of `SRC` and fits, encoding
to an empty writer, flushing and decoding `SYMCNT = SRC_LEN` symbols in bounded mode gives the bytes of `SRC` in
`DST`. -/
def Obligations.HufEncodeDecodeRoundTrip : Prop :=
  ∀ (s : State) (l : Table (BitVec 8)), Ready s → s.cap.Valid → s.srcLen.toNat ≤ s.cap.bufCap → s.ctl = 1#1 →
    s.symCnt = s.srcLen → canonical l = .ok s.code →
    (∀ x ∈ bufferBytes s .src, (s.code.get x).len ≠ 0#8) →
    ((bufferBytes s .src).flatMap fun x => codeBits (s.code.get x)).length ≤ 8 * s.cap.bufCap →
    ∃ t : State, execList [.bsWinit, .hufEnc, .bsFlush, .bsRinit 2, .hufDec] s = .next t ∧ Ready t ∧
      bufferBytes t .dst = bufferBytes s .src

/-! ### Frames -/

/-- 44_frame.md R181: the length table of a non-empty stream has a non-zero length for exactly the symbols of the
stream, and the canonical codes exist. -/
def Obligations.EncoderLengthTableCoversTheStream : Prop :=
  ∀ stream : List Byte, stream ≠ [] → stream.length < 2 ^ 64 →
    (∀ x : Byte, (streamLengths stream).get x ≠ 0#8 ↔ x ∈ stream) ∧
      ∃ c : Table CodeEntry, canonical (streamLengths stream) = .ok c

/-- 44_frame.md R180, R181, R183, R184, R199, 30_encoding.md R82, R83: a `HUF2` frame is the magic, the 256 lengths, the
little-endian CRC of the payload and the payload; a `HUF_LZ77` frame the same over the token bytes. The registers
written are `DST_LEN`, `SYMCNT`, `ORIGLEN`, `CRCR`. A token list beyond `TOK_CAP`, token bytes, a payload or a frame beyond
`BUF_CAP` is `MemoryError` of its size, with `DST` emptied and nothing else changed; that the payload is looked at before
the frame is the model's reading (log entry 12). -/
def Obligations.PlainAndHybridFrames : Prop :=
  ∀ (s : State) (c : Table CodeEntry), Ready s → s.cap.Valid → s.srcLen ≠ 0#64 → s.srcLen.toNat ≤ s.cap.bufCap →
    let cap := s.cap.bufCap
    let data := bufferBytes s .src
    let toks := lzCompress data s.window.toNat s.lookahead.toNat
    let bytes := tokensToBytes toks
    let payloadOf := fun stream : List Byte => packBits (streamBits c stream)
    let full := fun (i : Instr) (size : Nat) =>
      exec i s = .next (errored 9#8 (BitVec.ofNat 64 size) (encode i) (emptied s))
    (canonical (streamLengths data) = .ok c →
      ((frameOf magicHuf2 data c).length ≤ cap →
        exec .frmEncPlain s = .next { produced (frameOf magicHuf2 data c) s with
          symCnt := s.srcLen, origLen := s.srcLen, crcr := crc32 (payloadOf data) }) ∧
      (cap < (payloadOf data).length → (payloadOf data).length < 2 ^ 64 → full .frmEncPlain (payloadOf data).length) ∧
      ((payloadOf data).length ≤ cap → cap < (frameOf magicHuf2 data c).length →
        full .frmEncPlain (frameOf magicHuf2 data c).length)) ∧
    (s.cap.tokCap < toks.length → full .frmEncHyb toks.length) ∧
    (toks.length ≤ s.cap.tokCap → cap < bytes.length → full .frmEncHyb bytes.length) ∧
    (toks.length ≤ s.cap.tokCap → bytes.length ≤ cap → canonical (streamLengths bytes) = .ok c →
      ((frameOf magicHybrid bytes c).length ≤ cap →
        exec .frmEncHyb s = .next { produced (frameOf magicHybrid bytes c) s with
          symCnt := BitVec.ofNat 64 bytes.length, origLen := s.srcLen, crcr := crc32 (payloadOf bytes) }) ∧
      (cap < (payloadOf bytes).length → (payloadOf bytes).length < 2 ^ 64 →
        full .frmEncHyb (payloadOf bytes).length) ∧
      ((payloadOf bytes).length ≤ cap → cap < (frameOf magicHybrid bytes c).length →
        full .frmEncHyb (frameOf magicHybrid bytes c).length))

/-- 44_frame.md R180, R185, R186, R199, 30_encoding.md R85, R86: the `HUF_PAR` container is the magic, the number of
chunks, their sizes and the blobs; a zero `CHUNKSZ` is `InvalidInput(0)`. Chunk `i` is the bytes `i * CHUNKSZ` to
`min((i + 1) * CHUNKSZ, SRC_LEN) - 1`, and blob `i` is the whole `HUF2` frame of chunk `i`. The `STOR` frame is the magic,
the size and the bytes; `CRCR` is unchanged. What does not fit `BUF_CAP` is `MemoryError` of its size, with `DST` emptied and nothing
else changed: the payload or the frame of the first chunk that does not fit (in that order, the model's reading, log entry
12), the container, the stored frame, and for every variant the 12 bytes of the empty-file frame. -/
def Obligations.ContainerAndStoredFrames : Prop :=
  ∀ s : State, Ready s → s.cap.Valid → s.srcLen.toNat ≤ s.cap.bufCap →
    let cap := s.cap.bufCap
    let chunks := chunksOf s.chunkSz.toNat (bufferBytes s .src)
    let full := fun (i : Instr) (size : Nat) =>
      exec i s = .next (errored 9#8 (BitVec.ofNat 64 size) (encode i) (emptied s))
    (s.srcLen ≠ 0#64 →
      (s.chunkSz ≠ 0#64 →
        chunks.length = (s.srcLen.toNat + s.chunkSz.toNat - 1) / s.chunkSz.toNat ∧
        (∀ (i : Nat) (chunk : List Byte), chunks[i]? = some chunk →
          chunk = (List.range' (i * s.chunkSz.toNat)
            (min ((i + 1) * s.chunkSz.toNat) s.srcLen.toNat - i * s.chunkSz.toNat)).map (bufferByte s .src)) ∧
        ((∀ chunk ∈ chunks, ∃ c : Table CodeEntry, canonical (streamLengths chunk) = .ok c ∧
            (frameOf magicHuf2 chunk c).length ≤ cap) → ∃ blobs : List Encoded, encodeChunks cap chunks = .ok blobs) ∧
        ∀ blobs : List Encoded, encodeChunks cap chunks = .ok blobs → blobs.length = chunks.length ∧
          ∀ (i : Nat) (b : Encoded), blobs[i]? = some b → ∃ (chunk : List Byte) (c : Table CodeEntry),
            chunks[i]? = some chunk ∧ canonical (streamLengths chunk) = .ok c ∧
              b.frame = frameOf magicHuf2 chunk c ∧ b.crc = crc32 (packBits (streamBits c chunk))) ∧
      (∀ blobs : List Encoded, s.chunkSz ≠ 0#64 → encodeChunks cap chunks = .ok blobs →
        let frame := magicPar ++ toLe 8 blobs.length ++ blobs.flatMap (fun b => toLe 8 b.frame.length) ++
          blobs.flatMap Encoded.frame
        (frame.length ≤ cap → exec .frmEncPar s = .next { produced frame s with
          symCnt := s.srcLen, origLen := s.srcLen, crcr := (blobs.getLast?.map Encoded.crc).getD 0#32 }) ∧
        (cap < frame.length → frame.length < 2 ^ 64 → full .frmEncPar frame.length)) ∧
      (∀ (pre post : List (List Byte)) (chunk : List Byte) (blobs : List Encoded) (c : Table CodeEntry),
        s.chunkSz ≠ 0#64 → chunks = pre ++ chunk :: post → encodeChunks cap pre = .ok blobs →
        canonical (streamLengths chunk) = .ok c →
        let payload := packBits (streamBits c chunk)
        (cap < payload.length → payload.length < 2 ^ 64 → full .frmEncPar payload.length) ∧
        (payload.length ≤ cap → cap < (frameOf magicHuf2 chunk c).length →
          full .frmEncPar (frameOf magicHuf2 chunk c).length)) ∧
      (s.chunkSz = 0#64 → exec .frmEncPar s = .next (errored 8#8 0#64 0x50000002#32 (emptied s))) ∧
      (12 + s.srcLen.toNat ≤ cap →
        exec .frmEncStor s = .next { produced (magicStor ++ toLe 8 s.srcLen.toNat ++ bufferBytes s .src) s with
          symCnt := 0#64, origLen := s.srcLen }) ∧
      (cap < 12 + s.srcLen.toNat → full .frmEncStor (12 + s.srcLen.toNat))) ∧
    (s.srcLen = 0#64 → cap < 12 → ∀ i ∈ [.frmEncPlain, .frmEncHyb, .frmEncPar, .frmEncStor], full i 12)

/-- 44_frame.md R182, 30_encoding.md R84: every variant writes the 12-byte empty-file frame for empty input;
`SYMCNT` and `ORIGLEN` become 0 and `CRCR` is unchanged. -/
def Obligations.EmptyInputGivesEmptyFileFrame : Prop :=
  ∀ s : State, Ready s → s.srcLen = 0#64 → 12 ≤ s.cap.bufCap →
    ∀ i ∈ [.frmEncPlain, .frmEncHyb, .frmEncPar, .frmEncStor],
      exec i s = .next { produced [0x48#8, 0x55#8, 0x46#8, 0x31#8, 0#8, 0#8, 0#8, 0#8, 0#8, 0#8, 0#8, 0#8] s with
        symCnt := 0#64, origLen := 0#64 }

/-- 44_frame.md R187, R188, R189, 30_encoding.md R77: `FRM.SNIFF` puts the code of the magic `SRC` begins with in
`RES`, 0 when there is none; for `FRM.DEC` an unrecognised magic is `InvalidMagic(0)` with `RES = 0`. -/
def Obligations.MagicClassification : Prop :=
  ∀ s : State, Ready s → s.srcLen.toNat ≤ s.cap.bufCap →
    let magics : List (List Byte × BitVec 64) := [([0x48#8, 0x55#8, 0x46#8, 0x31#8], 1#64),
      ([0x48#8, 0x55#8, 0x46#8, 0x32#8], 2#64),
      ([0x48#8, 0x55#8, 0x46#8, 0x5F#8, 0x4C#8, 0x5A#8, 0x37#8, 0x37#8], 3#64),
      ([0x48#8, 0x55#8, 0x46#8, 0x5F#8, 0x50#8, 0x41#8, 0x52#8], 4#64), ([0x53#8, 0x54#8, 0x4F#8, 0x52#8], 5#64)]
    (∀ m ∈ magics, m.1 <+: bufferBytes s .src → exec .frmSniff s = .next { s with res := m.2 }) ∧
      ((∀ m ∈ magics, ¬ m.1 <+: bufferBytes s .src) →
        exec .frmSniff s = .next { s with res := 0#64 } ∧
          exec .frmDec s = .next (errored 3#8 0#64 0x51000000#32 { emptied s with res := 0#64 }))

/-- 44_frame.md R189 to R191, R193 to R195 (90_conflicts.md C4, C6): `FRM.DEC` puts the decoding of the frame in `DST`,
the variant code in `RES` and the CRC last recomputed in `CRCR`. The empty-file frame, and a `HUF2` frame with an all-zero
table whatever follows, give empty output; so does such a `HUF_LZ77` frame, unless bounded mode asks for another length.
The errors of the headers of `HUF1`, `HUF2`, `HUF_LZ77`, `STOR` and `HUF_PAR` frames, of a table that over-subscribes and of a
blob that is no `HUF2` frame are those of the rules; an output beyond `BUF_CAP` is `MemoryError` of its size. That the size
of the whole output is checked at the end is the model's reading (log entry 13). -/
def Obligations.FrameDecodeResult : Prop :=
  ∀ s : State, Ready s → s.srcLen.toNat ≤ s.cap.bufCap →
    let frame := bufferBytes s .src
    let v := classify frame
    let d := decodeFrame s v frame
    let returns := fun (out : List Byte) (res : BitVec 64) (crc : BitVec 32) =>
      exec .frmDec s = .next { produced out s with res := res, crcr := crc }
    let raises := fun (code : BitVec 8) (info : Nat) (res : BitVec 64) (crc : BitVec 32) =>
      exec .frmDec s = .next (errored code (BitVec.ofNat 64 info) 0x51000000#32
        { emptied s with res := res, crcr := crc })
    (∀ out : List Byte, d.result = .ok out →
      (out.length ≤ s.cap.bufCap → returns out (variantCode v) d.crc) ∧
        (s.cap.bufCap < out.length → out.length < 2 ^ 64 → raises 9#8 out.length (variantCode v) d.crc)) ∧
    (∀ e : CmdError, d.result = .error e → e.info < 2 ^ 64 →
      raises (errorCode e.kind) e.info (variantCode v) d.crc) ∧
    (magicHuf1 <+: frame → let n := fromLe ((frame.drop 4).take 8)
      (frame.length < 12 → raises 4#8 frame.length 1#64 s.crcr) ∧
      (12 ≤ frame.length → n = 0 → returns [] 1#64 s.crcr) ∧
      (12 ≤ frame.length → n ≠ 0 → raises 6#8 n 1#64 s.crcr)) ∧
    (∀ (magic body : List Byte) (res : BitVec 64), (magic, res) ∈ [(magicHuf2, 2#64), (magicHybrid, 3#64)] →
      frame = magic ++ body →
      (body.length < 256 → raises 4#8 body.length res s.crcr) ∧
      ((∃ x ∈ body.take 256, x ≠ 0#8) → 256 ≤ body.length → body.length < 260 → raises 4#8 body.length res s.crcr) ∧
      (256 ≤ body.length → (∀ x ∈ body.take 256, x = 0#8) →
        (res = 2#64 ∨ s.ctl ≠ 1#1 ∨ s.origLen = 0#64 → returns [] res s.crcr) ∧
          (res = 3#64 → s.ctl = 1#1 → s.origLen ≠ 0#64 → raises 6#8 0 3#64 s.crcr)) ∧
      (∀ x : Byte, 260 ≤ body.length → (crc32 (body.drop 260)).toNat = fromLe ((body.drop 256).take 4) →
        canonical (lengthTable body) = .error ⟨.corruptHeader, x.toNat⟩ →
        raises 4#8 x.toNat res (crc32 (body.drop 260)))) ∧
    (magicStor <+: frame → let n := fromLe ((frame.drop 4).take 8)
      (frame.length < 12 → raises 4#8 frame.length 5#64 s.crcr) ∧
      (12 ≤ frame.length → frame.length ≠ 12 + n → raises 4#8 n 5#64 s.crcr) ∧
      (frame.length = 12 + n → returns (frame.drop 12) 5#64 s.crcr)) ∧
    (magicPar <+: frame →
      let k := fromLe ((frame.drop 7).take 8)
      let sizes := (List.range k).map fun i => fromLe ((frame.drop (15 + 8 * i)).take 8)
      let bound := s.ctl == 1#1
      let decoded := fun i => decodeChunks s.cap.bufCap bound s.origLen.toNat s.chunkSz.toNat 0 (sizes.take i) s.crcr
        (frame.drop (15 + 8 * k))
      (s.ctl = 1#1 → s.chunkSz = 0#64 → raises 8#8 0 4#64 s.crcr) ∧
      (¬ (s.ctl = 1#1 ∧ s.chunkSz = 0#64) →
        (frame.length < 15 → raises 4#8 frame.length 4#64 s.crcr) ∧
        (15 ≤ frame.length → (frame.length - 15) / 8 < k → raises 4#8 k 4#64 s.crcr) ∧
        (15 ≤ frame.length → k ≤ (frame.length - 15) / 8 →
          (15 + 8 * k + sizes.sum ≠ frame.length → raises 4#8 k 4#64 s.crcr) ∧
          (15 + 8 * k + sizes.sum = frame.length →
            (s.ctl = 1#1 → k ≠ ceilDiv s.origLen.toNat s.chunkSz.toNat → raises 4#8 k 4#64 s.crcr) ∧
            ((s.ctl = 1#1 → k = ceilDiv s.origLen.toNat s.chunkSz.toNat) →
              ∀ (i : Nat) (outs : List Byte), i < k → (decoded i).result = .ok outs →
                ¬ magicHuf2 <+: (frame.drop (15 + 8 * k + (sizes.take i).sum)).take (sizes.getD i 0) →
                raises 3#8 i 4#64 (decoded i).crc)))))

/-- 44_frame.md R191, R192, R193, R195: a `HUF2` or `HUF_LZ77` frame whose stored CRC is not the CRC of its payload is
`ChecksumMismatch` of the stored CRC, whatever its table, unless that is all zero (90_conflicts.md C6), and in both modes;
the recomputed CRC is in `CRCR`. So is a container whose first such blob comes after blobs that decode. -/
def Obligations.ChecksumIsVerifiedBeforeDecoding : Prop :=
  ∀ (s : State) (table stored payload : List Byte), Ready s → s.srcLen.toNat ≤ s.cap.bufCap →
    table.length = 256 → (∃ x ∈ table, x ≠ 0#8) → stored.length = 4 → (crc32 payload).toNat ≠ fromLe stored →
    let mismatch := fun res : BitVec 64 => exec .frmDec s = .next (errored 5#8 (BitVec.ofNat 64 (fromLe stored))
      0x51000000#32 { emptied s with res := res, crcr := crc32 payload })
    (bufferBytes s .src = magicHuf2 ++ table ++ stored ++ payload → mismatch 2#64) ∧
    (bufferBytes s .src = magicHybrid ++ table ++ stored ++ payload → mismatch 3#64) ∧
    ∀ (pre post : List (List Byte)) (outs : List Byte),
      let blobs := pre ++ (magicHuf2 ++ table ++ stored ++ payload) :: post
      bufferBytes s .src = magicPar ++ toLe 8 blobs.length ++ blobs.flatMap (fun b => toLe 8 b.length) ++ blobs.flatten →
      (s.ctl = 1#1 → s.chunkSz ≠ 0#64 ∧ blobs.length = ceilDiv s.origLen.toNat s.chunkSz.toNat) →
      (decodeChunks s.cap.bufCap (s.ctl == 1#1) s.origLen.toNat s.chunkSz.toNat 0 (pre.map List.length) s.crcr
        pre.flatten).result = .ok outs →
      mismatch 4#64

/-- 44_frame.md R197 for `STOR`: a stored frame, swapped in and decoded, gives the original bytes. -/
def Obligations.StoredFrameRoundTrip : Prop :=
  ∀ s u : State, Ready s → s.cap.Valid → exec .frmEncStor s = .next u → Ready u →
    ∃ t : State, execList [.bufSwap, .frmDec] u = .next t ∧ Ready t ∧ bufferBytes t .dst = bufferBytes s .src

/-- 44_frame.md R197 for `HUF2`: in bounded mode a plain frame, swapped in and decoded with the registers as the
encoder left them, gives the original bytes. -/
def Obligations.PlainFrameRoundTrip : Prop :=
  ∀ s u : State, Ready s → s.cap.Valid → s.ctl = 1#1 → exec .frmEncPlain s = .next u → Ready u →
    ∃ t : State, execList [.bufSwap, .frmDec] u = .next t ∧ Ready t ∧ bufferBytes t .dst = bufferBytes s .src

/-- 44_frame.md R197 for `HUF_LZ77` and `HUF_PAR`. -/
def Obligations.HybridAndContainerRoundTrip : Prop :=
  ∀ s u : State, ∀ i ∈ [Instr.frmEncHyb, Instr.frmEncPar], Ready s → s.cap.Valid → s.ctl = 1#1 →
    exec i s = .next u → Ready u →
    ∃ t : State, execList [.bufSwap, .frmDec] u = .next t ∧ Ready t ∧ bufferBytes t .dst = bufferBytes s .src

/-! ### Frames of the commands: what stays unchanged -/

/-- 40_bitstream.md R110, R102 to R104; 43_huffman.md R164; 60_exceptions.md R233, R234: the writer commands change the
writer and the error registers only, error or not. `BS.WBIT`, `BS.WBITS` and `BS.FLUSH`, and `HUF.ENC` when it raises
nothing, store only the bytes of `BSW` from the old `W_LEN` up to the new one. -/
def Obligations.WriterCommandsFrame : Prop :=
  ∀ (s t : State) (b n : Nat), s.cap.Valid →
    ∀ i ∈ [Instr.bsWinit, .bsWbit b, .bsWbits n, .bsFlush, .hufEnc], exec i s = .next t →
      t = { s with bsw := t.bsw, wLen := t.wLen, wAcc := t.wAcc, wN := t.wN,
                   err := t.err, errInfo := t.errInfo, errCmd := t.errCmd } ∧
      (i ≠ .bsWinit → (i = .hufEnc → Ready t) → ∀ a : Nat, (a < s.wLen.toNat ∨ t.wLen.toNat ≤ a) →
        Sparse.get? (α := Byte) t.bsw a = Sparse.get? (α := Byte) s.bsw a)

/-- 40_bitstream.md R110, R106 to R108; 41_crc32.md R122; 44_frame.md R188: the reader commands, `CRC.CALC` and
`FRM.SNIFF` change only the registers named, and the error registers; no buffer, no table. -/
def Obligations.ReaderCommandsFrame : Prop :=
  ∀ (s t : State) (k : Nat),
    (exec (.bsRinit k) s = .next t → t = { s with
        rSel := t.rSel, rByte := t.rByte, rBit := t.rBit, err := t.err, errInfo := t.errInfo,
        errCmd := t.errCmd }) ∧
    (∀ i ∈ [Instr.bsRbit, .bsRbits k], exec i s = .next t → t = { s with
        rByte := t.rByte, rBit := t.rBit, res := t.res, err := t.err, errInfo := t.errInfo,
        errCmd := t.errCmd }) ∧
    (exec (.crcCalc k) s = .next t → t = { s with
        crcr := t.crcr, res := t.res, err := t.err, errInfo := t.errInfo, errCmd := t.errCmd }) ∧
    (exec .frmSniff s = .next t → t = { s with
        res := t.res, err := t.err, errInfo := t.errInfo, errCmd := t.errCmd })

/-- 10_state.md R45; 44_frame.md R180; the "writes" of 42_lz77.md and 43_huffman.md; 60_exceptions.md R233, R234: the
commands on tables and the commands that produce `DST` change only what their rules name, and the error registers,
error or not. In particular the frame commands leave the leaf units and `SRC` alone, and no command but `BUF.SWAP`
writes `SRC`. -/
def Obligations.TableAndOutputCommandsFrame : Prop :=
  ∀ s t : State,
    (exec .bufSwap s = .next t → t = { s with
        src := t.src, srcLen := t.srcLen, dst := t.dst, dstLen := t.dstLen, err := t.err,
        errInfo := t.errInfo, errCmd := t.errCmd }) ∧
    (∀ i ∈ [Instr.lzComp, .lzB2t], exec i s = .next t → t = { s with
        tok := t.tok, tokCnt := t.tokCnt, err := t.err, errInfo := t.errInfo, errCmd := t.errCmd }) ∧
    (∀ i ∈ [Instr.lzDecomp, .lzT2b], exec i s = .next t → t = { s with
        dst := t.dst, dstLen := t.dstLen, err := t.err, errInfo := t.errInfo, errCmd := t.errCmd }) ∧
    (exec .hufFreq s = .next t → t = { s with
        freq := t.freq, err := t.err, errInfo := t.errInfo, errCmd := t.errCmd }) ∧
    (exec .hufBuild s = .next t → t = { s with
        node := t.node, nodeCnt := t.nodeCnt, root := t.root, err := t.err, errInfo := t.errInfo,
        errCmd := t.errCmd }) ∧
    (exec .hufCodes s = .next t → t = { s with
        tcode := t.tcode, err := t.err, errInfo := t.errInfo, errCmd := t.errCmd }) ∧
    (exec .hufLens s = .next t → t = { s with len := t.len }) ∧
    (exec .hufCanon s = .next t → t = { s with
        code := t.code, err := t.err, errInfo := t.errInfo, errCmd := t.errCmd }) ∧
    (exec .hufDec s = .next t → t = { s with
        dst := t.dst, dstLen := t.dstLen, rByte := t.rByte, rBit := t.rBit, err := t.err,
        errInfo := t.errInfo, errCmd := t.errCmd }) ∧
    (∀ i ∈ [Instr.frmEncPlain, .frmEncHyb, .frmEncPar], exec i s = .next t → t = { s with
        dst := t.dst, dstLen := t.dstLen, symCnt := t.symCnt, origLen := t.origLen, crcr := t.crcr,
        err := t.err, errInfo := t.errInfo, errCmd := t.errCmd }) ∧
    (exec .frmEncStor s = .next t → t = { s with
        dst := t.dst, dstLen := t.dstLen, symCnt := t.symCnt, origLen := t.origLen, err := t.err,
        errInfo := t.errInfo, errCmd := t.errCmd }) ∧
    (exec .frmDec s = .next t → t = { s with
        dst := t.dst, dstLen := t.dstLen, res := t.res, crcr := t.crcr, err := t.err,
        errInfo := t.errInfo, errCmd := t.errCmd })

/-! ### Invariants and whole-machine rules -/

/-- 10_state.md R28, R33 to R36, R41, R42; 20_memory.md R62: every step, host writes and resets among them, keeps the
buffers, the token table and the node arena canonical and inside their capacities, `DST_LEN` and `W_LEN` at most `BUF_CAP`,
`NODE_CNT` at most 511, and `ROOT` a valid node or `NONE`. -/
def Obligations.StepKeepsMemoryInvariant : Prop :=
  ∀ s t : State, MemoryInv s → step s = .next t → MemoryInv t

/-- 10_state.md R18, R19, R30, R31; 60_exceptions.md R231: every step keeps the writer's and the reader's invariant and
the invariant of the error registers. -/
def Obligations.StepKeepsRegisterInvariants : Prop :=
  ∀ s t : State, step s = .next t →
    (WriterInv s → WriterInv t) ∧ (s.rSel ≠ 3#2 → t.rSel ≠ 3#2) ∧ (ErrorInv s → ErrorInv t)

/-- 43_huffman.md R162: `CODE` is at all times a valid prefix-free table whose codes fit their lengths. -/
def Obligations.StepKeepsCodePrefixFree : Prop :=
  ∀ s t : State, PrefixFree s.code → CodesFit s.code → step s = .next t → PrefixFree t.code ∧ CodesFit t.code

/-- 10_state.md R44: the reset state meets every invariant, whatever the capacities. -/
def Obligations.ResetMeetsInvariants : Prop :=
  ∀ c : Config, c.Valid →
    MemoryInv (State.resetWith c) ∧ WriterInv (State.resetWith c) ∧ (State.resetWith c).rSel ≠ 3#2 ∧
      ErrorInv (State.resetWith c) ∧ PrefixFree (State.resetWith c).code ∧ CodesFit (State.resetWith c).code

/-- 20_memory.md R62, 70_reset_and_hazards.md R262, 93_implementation_defined.md I1: no command's result depends on a
byte at or beyond a buffer's length or on an invalid entry of `TOK` or `NODE`: from two states that agree below the
lengths every command reaches two states that agree below the lengths. -/
def Obligations.UnspecifiedContentIsNeverRead : Prop :=
  ∀ (i : Instr) (s s' t t' : State), SameBelow s s' → exec i s = .next t → exec i s' = .next t' → SameBelow t t'

/-- 70_reset_and_hazards.md R277: the encoders do not read `CTL.BOUND`, the decoder reads neither `WINDOW` nor
`LOOKAHEAD`. -/
def Obligations.EncoderAndDecoderAgreeOnNothingElse : Prop :=
  ∀ s t : State,
    (∀ (c : BitVec 1), ∀ i ∈ [Instr.frmEncPlain, .frmEncHyb, .frmEncPar, .frmEncStor], exec i s = .next t →
      exec i { s with ctl := c } = .next { t with ctl := c }) ∧
    ∀ (w l : BitVec 16), exec .frmDec s = .next t →
      exec .frmDec { s with window := w, lookahead := l } = .next { t with window := w, lookahead := l }
end

