-- ==== Sys2Proof/Laws/Memory.lean ====
section
/-! SUPPORT. The laws of the sparse stores (byte buffers, `TOK`, `NODE`) and of the 256-entry tables. -/

namespace Sys2Proof.Laws

open Sys2Proof.Machine

section
variable {α : Type}

/-! ### Read after write -/

@[simp] theorem get?_nil (a : Nat) : Sparse.get? ([] : Sparse α) a = none := rfl

theorem get?_put_eq (m : Sparse α) (a : Nat) (v : α) : Sparse.get? (Sparse.put m a v) a = some v := by
  induction m with
  | nil => simp [Sparse.put, Sparse.get?]
  | cons p m ih =>
    obtain ⟨b, w⟩ := p
    simp only [Sparse.put]
    split
    · simp [Sparse.get?]
    · split
      · simp [Sparse.get?]
      · rename_i h
        simp [Sparse.get?, Ne.symm h, ih]

theorem get?_put_ne (m : Sparse α) {a b : Nat} (v : α) (h : a ≠ b) :
    Sparse.get? (Sparse.put m b v) a = Sparse.get? m a := by
  induction m with
  | nil => simp [Sparse.put, Sparse.get?, Ne.symm h]
  | cons p m ih =>
    obtain ⟨c, w⟩ := p
    simp only [Sparse.put]
    split
    · simp [Sparse.get?, Ne.symm h]
    · split
      · rename_i hb
        subst hb
        simp [Sparse.get?, Ne.symm h]
      · simp [Sparse.get?, ih]

theorem get?_listFrom (xs : List α) : ∀ i k : Nat,
    Sparse.get? (Sparse.listFrom i xs) k = if i ≤ k then xs[k - i]? else none := by
  induction xs with
  | nil => intro i k; simp [Sparse.listFrom]
  | cons x xs ih =>
    intro i k
    simp only [Sparse.listFrom, Sparse.get?, ih]
    by_cases h : i = k
    · simp [h]
    · by_cases hk : i ≤ k
      · have : k - i = k - (i + 1) + 1 := by omega
        simp [h, hk, this, show i + 1 ≤ k by omega]
      · simp [h, hk, show ¬ i + 1 ≤ k by omega]

/-- Entry `k` of the entries written from index 0. -/
@[simp] theorem get?_ofList (xs : List α) (k : Nat) : Sparse.get? (Sparse.ofList xs) k = xs[k]? := by
  simp [Sparse.ofList, get?_listFrom]

theorem get?_append (m n : Sparse α) (k : Nat) :
    Sparse.get? (m ++ n) k = (Sparse.get? m k).or (Sparse.get? n k) := by
  induction m with
  | nil => simp [Sparse.get?]
  | cons p m ih =>
    obtain ⟨b, w⟩ := p
    simp only [List.cons_append, Sparse.get?]
    split <;> simp [ih]

theorem get?_filter_ge (m : Sparse α) (n k : Nat) :
    Sparse.get? (m.filter fun p => decide (n ≤ p.1)) k = if n ≤ k then Sparse.get? m k else none := by
  induction m with
  | nil => simp [Sparse.get?]
  | cons p m ih =>
    obtain ⟨b, w⟩ := p
    by_cases hb : n ≤ b
    · simp only [List.filter_cons, hb, decide_true, if_true, Sparse.get?, ih]
      by_cases h : b = k
      · subst h; simp [hb]
      · simp [h]
    · simp only [List.filter_cons, hb, decide_false, Bool.false_eq_true, if_false, Sparse.get?, ih]
      by_cases hk : n ≤ k
      · simp [hk, show b ≠ k by omega]
      · simp [hk]

/-- Entry `k` after the entries `xs` were written from index 0: the new one below `xs.length`, else the old. -/
theorem get?_overwrite (xs : List α) (m : Sparse α) (k : Nat) :
    Sparse.get? (Sparse.overwrite xs m) k = if k < xs.length then xs[k]? else Sparse.get? m k := by
  simp only [Sparse.overwrite, get?_append, get?_ofList, get?_filter_ge]
  by_cases h : k < xs.length
  · simp [h]
  · simp [h, Nat.not_lt.mp h]

/-! ### The canonical form -/

/-- The canonical form, as a fact about all pairs of cells. -/
theorem rising_iff_pairwise (m : Sparse α) : Sparse.rising m = true ↔ m.Pairwise fun p q => p.1 < q.1 := by
  induction m with
  | nil => simp [Sparse.rising]
  | cons p m ih =>
    cases m with
    | nil => simp [Sparse.rising]
    | cons q m =>
      simp only [Sparse.rising, Bool.and_eq_true, decide_eq_true_eq, ih, List.pairwise_cons, List.mem_cons]
      constructor
      · rintro ⟨h, hq, hm⟩
        exact ⟨fun r hr => hr.elim (fun e => e ▸ h) fun hr => Nat.lt_trans h (hq r hr), hq, hm⟩
      · rintro ⟨h, hq, hm⟩
        exact ⟨h q (Or.inl rfl), hq, hm⟩

theorem mem_put {m : Sparse α} {a : Nat} {v : α} {p : Nat × α} (h : p ∈ Sparse.put m a v) :
    p = (a, v) ∨ p ∈ m := by
  induction m with
  | nil => simpa [Sparse.put] using h
  | cons q m ih =>
    obtain ⟨b, w⟩ := q
    simp only [Sparse.put] at h
    split at h
    · simpa using h
    · split at h
      · rename_i e
        subst e
        rcases List.mem_cons.mp h with h | h
        · exact Or.inl h
        · exact Or.inr (List.mem_cons_of_mem _ h)
      · rcases List.mem_cons.mp h with h | h
        · exact Or.inr (by simp [h])
        · exact (ih h).imp id (List.mem_cons_of_mem _)

/-- A write keeps the canonical form. -/
theorem rising_put {m : Sparse α} (a : Nat) (v : α) (h : Sparse.rising m = true) :
    Sparse.rising (Sparse.put m a v) = true := by
  rw [rising_iff_pairwise] at h ⊢
  induction m with
  | nil => simp [Sparse.put]
  | cons p m ih =>
    obtain ⟨b, w⟩ := p
    obtain ⟨hb, hm⟩ := List.pairwise_cons.mp h
    simp only [Sparse.put]
    split
    · rename_i hab
      refine List.pairwise_cons.mpr ⟨fun q hq => ?_, h⟩
      rcases List.mem_cons.mp hq with rfl | hq
      · exact hab
      · exact Nat.lt_trans hab (hb q hq)
    · split
      · rename_i _ hab
        subst hab
        exact List.pairwise_cons.mpr ⟨hb, hm⟩
      · rename_i h1 h2
        refine List.pairwise_cons.mpr ⟨fun q hq => ?_, ih hm⟩
        rcases mem_put hq with rfl | hq
        · show b < a
          omega
        · exact hb q hq

theorem mem_listFrom (xs : List α) : ∀ (i : Nat) (p : Nat × α), p ∈ Sparse.listFrom i xs →
    i ≤ p.1 ∧ p.1 < i + xs.length := by
  induction xs with
  | nil => intro i p h; simp [Sparse.listFrom] at h
  | cons x xs ih =>
    intro i p h
    rcases List.mem_cons.mp h with rfl | h
    · simp
    · have := ih (i + 1) p h
      simp only [List.length_cons]
      omega

theorem pairwise_listFrom (xs : List α) : ∀ i : Nat,
    (Sparse.listFrom i xs).Pairwise fun p q => p.1 < q.1 := by
  induction xs with
  | nil => intro i; simp [Sparse.listFrom]
  | cons x xs ih =>
    intro i
    exact List.pairwise_cons.mpr ⟨fun q hq => (mem_listFrom xs (i + 1) q hq).1, ih (i + 1)⟩

/-- Entries written from index 0 are in canonical form. -/
theorem rising_ofList (xs : List α) : Sparse.rising (Sparse.ofList xs) = true :=
  (rising_iff_pairwise _).mpr (pairwise_listFrom xs 0)

/-- Writing entries from index 0 keeps the canonical form. -/
theorem rising_overwrite (xs : List α) {m : Sparse α} (h : Sparse.rising m = true) :
    Sparse.rising (Sparse.overwrite xs m) = true := by
  rw [rising_iff_pairwise] at h ⊢
  refine List.pairwise_append.mpr ⟨pairwise_listFrom xs 0, h.filter _, fun p hp q hq => ?_⟩
  have h1 := (mem_listFrom xs 0 p hp).2
  have h2 := (List.mem_filter.mp hq).2
  simp only [decide_eq_true_eq] at h2
  omega

/-! ### Bounds -/

theorem below_nil (n : Nat) : Sparse.Below n ([] : Sparse α) := fun _ h => absurd h List.not_mem_nil

theorem below_mono {m : Sparse α} {n k : Nat} (h : Sparse.Below n m) (hk : n ≤ k) : Sparse.Below k m :=
  fun p hp => Nat.lt_of_lt_of_le (h p hp) hk

theorem below_put {m : Sparse α} {n a : Nat} (v : α) (h : Sparse.Below n m) (ha : a < n) :
    Sparse.Below n (Sparse.put m a v) := fun p hp => by
  rcases mem_put hp with rfl | hp
  · exact ha
  · exact h p hp

theorem below_ofList (xs : List α) {n : Nat} (h : xs.length ≤ n) : Sparse.Below n (Sparse.ofList xs) :=
  fun p hp => by have := (mem_listFrom xs 0 p hp).2; omega

theorem below_overwrite (xs : List α) {m : Sparse α} {n : Nat} (h : Sparse.Below n m) (hx : xs.length ≤ n) :
    Sparse.Below n (Sparse.overwrite xs m) := fun p hp => by
  rcases List.mem_append.mp hp with hp | hp
  · exact below_ofList xs hx p hp
  · exact h p (List.mem_filter.mp hp).1

end

/-! ### The byte buffers -/

/-- The canonical form of a buffer is that of its store. -/
@[simp] theorem memory_wf (m : Memory) : Memory.wf m = Sparse.rising (α := Byte) m := rfl

/-- The reset buffers are in canonical form. -/
theorem reset_memory_wf : Memory.wf State.reset.src = true ∧ Memory.wf State.reset.dst = true ∧
    Memory.wf State.reset.bsw = true := ⟨rfl, rfl, rfl⟩

/-- A write to a buffer keeps its canonical form. -/
theorem memory_wf_put {m : Memory} (a : Nat) (v : Byte) (h : Memory.wf m = true) :
    Memory.wf (Sparse.put (α := Byte) m a v) = true := rising_put a v h

/-- An output stored as a whole buffer is in canonical form. -/
theorem memory_wf_ofList (xs : List Byte) : Memory.wf (Sparse.ofList xs) = true := rising_ofList xs

@[simp] theorem bufferBytes_length (s : State) (b : Buffer) : (bufferBytes s b).length = bufferLen s b := by
  simp [bufferBytes]

/-- The bytes of `DST` after an output was stored are the output. -/
theorem bufferBytes_putDst (out : List Byte) (s : State) (h : out.length < 2 ^ 64) :
    bufferBytes (putDst out s) .dst = out := by
  have hl : bufferLen (putDst out s) .dst = out.length := by
    simp only [bufferLen, putDst, BitVec.toNat_ofNat]
    exact Nat.mod_eq_of_lt h
  refine List.ext_getElem (by simp [hl]) fun k h1 h2 => ?_
  simp only [bufferBytes, List.getElem_map, List.getElem_range, bufferByte, bufferCells, putDst, get?_ofList,
    List.getElem?_eq_getElem h2, Option.getD_some]

/-! ### The tables -/

section
variable {α : Type}

@[simp] theorem allSymbols_length : allSymbols.length = 256 := by simp [allSymbols]

theorem allSymbols_getElem (k : Nat) (h : k < allSymbols.length) : allSymbols[k] = BitVec.ofNat 8 k := by
  simp [allSymbols]

/-- Every symbol is listed. -/
theorem mem_allSymbols (x : Byte) : x ∈ allSymbols :=
  List.mem_map.mpr ⟨x.toNat, List.mem_range.mpr x.isLt, by simp⟩

/-- No symbol is listed twice. -/
theorem allSymbols_nodup : allSymbols.Nodup := by
  refine List.Nodup.map_on (fun a ha b hb h => ?_) List.nodup_range
  have ha := List.mem_range.mp ha
  have hb := List.mem_range.mp hb
  have := congrArg BitVec.toNat h
  simp only [BitVec.toNat_ofNat] at this
  omega

/-- Two tables with the same entries are equal. -/
theorem table_ext {t u : Table α} (h : ∀ x : Byte, t.get x = u.get x) : t = u := by
  obtain ⟨xs, hx⟩ := t
  obtain ⟨ys, hy⟩ := u
  have : xs = ys := List.ext_getElem (hx.trans hy.symm) fun k h1 h2 => by
    have hk : k < 256 := hx ▸ h1
    have := h (BitVec.ofNat 8 k)
    simpa [Table.get, Nat.mod_eq_of_lt hk] using this
  subst this
  rfl

@[simp] theorem get_fill (v : α) (x : Byte) : (Table.fill v).get x = v :=
  List.getElem_replicate _

@[simp] theorem get_ofFn (f : Byte → α) (x : Byte) : (Table.ofFn f).get x = f x := by
  simp [Table.get, Table.ofFn, allSymbols]

/-- Entry `y` after entry `x` was set to `v`. -/
theorem get_put (t : Table α) (x y : Byte) (v : α) :
    (t.put x v).get y = if x = y then v else t.get y := by
  simp only [Table.get, Table.put, List.getElem_set]
  by_cases h : x = y
  · simp [h]
  · simp [h, show x.toNat ≠ y.toNat from fun e => h (BitVec.eq_of_toNat_eq e)]

/-- The entries of a table are its values at the symbols, ascending. -/
theorem table_entries (t : Table α) : t.entries = allSymbols.map t.get := by
  refine List.ext_getElem (by simp [t.size_eq]) fun k h1 h2 => ?_
  have hk : k < 256 := t.size_eq ▸ h1
  simp [Table.get, allSymbols, Nat.mod_eq_of_lt hk]

end

end Sys2Proof.Laws
end

