-- ==== Sys2Proof/Laws/State.lean ====
section
/-! SUPPORT. One lemma per field and named update of the state, each true by unfolding. -/

namespace Sys2Proof.Laws

open Sys2Proof.Machine

variable (s : State)

/-! ### takeError

Taking an error writes the three error registers (60_exceptions.md R233). -/

@[simp] theorem takeError_cap (w : Word) (e : CmdError) : (takeError w e s).cap = s.cap := rfl
@[simp] theorem takeError_err (w : Word) (e : CmdError) : (takeError w e s).err = errorCode e.kind := rfl
@[simp] theorem takeError_errInfo (w : Word) (e : CmdError) : (takeError w e s).errInfo = errorInfo s.draws e.info := rfl
@[simp] theorem takeError_errCmd (w : Word) (e : CmdError) : (takeError w e s).errCmd = w := rfl
@[simp] theorem takeError_ctl (w : Word) (e : CmdError) : (takeError w e s).ctl = s.ctl := rfl
@[simp] theorem takeError_arg0 (w : Word) (e : CmdError) : (takeError w e s).arg0 = s.arg0 := rfl
@[simp] theorem takeError_res (w : Word) (e : CmdError) : (takeError w e s).res = s.res := rfl
@[simp] theorem takeError_window (w : Word) (e : CmdError) : (takeError w e s).window = s.window := rfl
@[simp] theorem takeError_lookahead (w : Word) (e : CmdError) : (takeError w e s).lookahead = s.lookahead := rfl
@[simp] theorem takeError_symCnt (w : Word) (e : CmdError) : (takeError w e s).symCnt = s.symCnt := rfl
@[simp] theorem takeError_origLen (w : Word) (e : CmdError) : (takeError w e s).origLen = s.origLen := rfl
@[simp] theorem takeError_chunkSz (w : Word) (e : CmdError) : (takeError w e s).chunkSz = s.chunkSz := rfl
@[simp] theorem takeError_srcLen (w : Word) (e : CmdError) : (takeError w e s).srcLen = s.srcLen := rfl
@[simp] theorem takeError_dstLen (w : Word) (e : CmdError) : (takeError w e s).dstLen = s.dstLen := rfl
@[simp] theorem takeError_crcr (w : Word) (e : CmdError) : (takeError w e s).crcr = s.crcr := rfl
@[simp] theorem takeError_wLen (w : Word) (e : CmdError) : (takeError w e s).wLen = s.wLen := rfl
@[simp] theorem takeError_wAcc (w : Word) (e : CmdError) : (takeError w e s).wAcc = s.wAcc := rfl
@[simp] theorem takeError_wN (w : Word) (e : CmdError) : (takeError w e s).wN = s.wN := rfl
@[simp] theorem takeError_rSel (w : Word) (e : CmdError) : (takeError w e s).rSel = s.rSel := rfl
@[simp] theorem takeError_rByte (w : Word) (e : CmdError) : (takeError w e s).rByte = s.rByte := rfl
@[simp] theorem takeError_rBit (w : Word) (e : CmdError) : (takeError w e s).rBit = s.rBit := rfl
@[simp] theorem takeError_tokCnt (w : Word) (e : CmdError) : (takeError w e s).tokCnt = s.tokCnt := rfl
@[simp] theorem takeError_nodeCnt (w : Word) (e : CmdError) : (takeError w e s).nodeCnt = s.nodeCnt := rfl
@[simp] theorem takeError_root (w : Word) (e : CmdError) : (takeError w e s).root = s.root := rfl
@[simp] theorem takeError_src (w : Word) (e : CmdError) : (takeError w e s).src = s.src := rfl
@[simp] theorem takeError_dst (w : Word) (e : CmdError) : (takeError w e s).dst = s.dst := rfl
@[simp] theorem takeError_bsw (w : Word) (e : CmdError) : (takeError w e s).bsw = s.bsw := rfl
@[simp] theorem takeError_freq (w : Word) (e : CmdError) : (takeError w e s).freq = s.freq := rfl
@[simp] theorem takeError_len (w : Word) (e : CmdError) : (takeError w e s).len = s.len := rfl
@[simp] theorem takeError_tcode (w : Word) (e : CmdError) : (takeError w e s).tcode = s.tcode := rfl
@[simp] theorem takeError_code (w : Word) (e : CmdError) : (takeError w e s).code = s.code := rfl
@[simp] theorem takeError_node (w : Word) (e : CmdError) : (takeError w e s).node = s.node := rfl
@[simp] theorem takeError_tok (w : Word) (e : CmdError) : (takeError w e s).tok = s.tok := rfl
@[simp] theorem takeError_inputs (w : Word) (e : CmdError) : (takeError w e s).inputs = s.inputs := rfl
@[simp] theorem takeError_answer (w : Word) (e : CmdError) : (takeError w e s).answer = s.answer := rfl
@[simp] theorem takeError_draws (w : Word) (e : CmdError) : (takeError w e s).draws = s.draws := rfl

/-! ### clearError

The acknowledgement clears the three error registers (45_system.md R221). -/

@[simp] theorem clearError_cap : (clearError s).cap = s.cap := rfl
@[simp] theorem clearError_err : (clearError s).err = 0#8 := rfl
@[simp] theorem clearError_errInfo : (clearError s).errInfo = 0#64 := rfl
@[simp] theorem clearError_errCmd : (clearError s).errCmd = 0#32 := rfl
@[simp] theorem clearError_ctl : (clearError s).ctl = s.ctl := rfl
@[simp] theorem clearError_arg0 : (clearError s).arg0 = s.arg0 := rfl
@[simp] theorem clearError_res : (clearError s).res = s.res := rfl
@[simp] theorem clearError_window : (clearError s).window = s.window := rfl
@[simp] theorem clearError_lookahead : (clearError s).lookahead = s.lookahead := rfl
@[simp] theorem clearError_symCnt : (clearError s).symCnt = s.symCnt := rfl
@[simp] theorem clearError_origLen : (clearError s).origLen = s.origLen := rfl
@[simp] theorem clearError_chunkSz : (clearError s).chunkSz = s.chunkSz := rfl
@[simp] theorem clearError_srcLen : (clearError s).srcLen = s.srcLen := rfl
@[simp] theorem clearError_dstLen : (clearError s).dstLen = s.dstLen := rfl
@[simp] theorem clearError_crcr : (clearError s).crcr = s.crcr := rfl
@[simp] theorem clearError_wLen : (clearError s).wLen = s.wLen := rfl
@[simp] theorem clearError_wAcc : (clearError s).wAcc = s.wAcc := rfl
@[simp] theorem clearError_wN : (clearError s).wN = s.wN := rfl
@[simp] theorem clearError_rSel : (clearError s).rSel = s.rSel := rfl
@[simp] theorem clearError_rByte : (clearError s).rByte = s.rByte := rfl
@[simp] theorem clearError_rBit : (clearError s).rBit = s.rBit := rfl
@[simp] theorem clearError_tokCnt : (clearError s).tokCnt = s.tokCnt := rfl
@[simp] theorem clearError_nodeCnt : (clearError s).nodeCnt = s.nodeCnt := rfl
@[simp] theorem clearError_root : (clearError s).root = s.root := rfl
@[simp] theorem clearError_src : (clearError s).src = s.src := rfl
@[simp] theorem clearError_dst : (clearError s).dst = s.dst := rfl
@[simp] theorem clearError_bsw : (clearError s).bsw = s.bsw := rfl
@[simp] theorem clearError_freq : (clearError s).freq = s.freq := rfl
@[simp] theorem clearError_len : (clearError s).len = s.len := rfl
@[simp] theorem clearError_tcode : (clearError s).tcode = s.tcode := rfl
@[simp] theorem clearError_code : (clearError s).code = s.code := rfl
@[simp] theorem clearError_node : (clearError s).node = s.node := rfl
@[simp] theorem clearError_tok : (clearError s).tok = s.tok := rfl
@[simp] theorem clearError_inputs : (clearError s).inputs = s.inputs := rfl
@[simp] theorem clearError_answer : (clearError s).answer = s.answer := rfl
@[simp] theorem clearError_draws : (clearError s).draws = s.draws := rfl

/-! ### putDst

An output replaces `DST` (10_state.md R35). -/

@[simp] theorem putDst_cap (out : List Byte) : (putDst out s).cap = s.cap := rfl
@[simp] theorem putDst_err (out : List Byte) : (putDst out s).err = s.err := rfl
@[simp] theorem putDst_errInfo (out : List Byte) : (putDst out s).errInfo = s.errInfo := rfl
@[simp] theorem putDst_errCmd (out : List Byte) : (putDst out s).errCmd = s.errCmd := rfl
@[simp] theorem putDst_ctl (out : List Byte) : (putDst out s).ctl = s.ctl := rfl
@[simp] theorem putDst_arg0 (out : List Byte) : (putDst out s).arg0 = s.arg0 := rfl
@[simp] theorem putDst_res (out : List Byte) : (putDst out s).res = s.res := rfl
@[simp] theorem putDst_window (out : List Byte) : (putDst out s).window = s.window := rfl
@[simp] theorem putDst_lookahead (out : List Byte) : (putDst out s).lookahead = s.lookahead := rfl
@[simp] theorem putDst_symCnt (out : List Byte) : (putDst out s).symCnt = s.symCnt := rfl
@[simp] theorem putDst_origLen (out : List Byte) : (putDst out s).origLen = s.origLen := rfl
@[simp] theorem putDst_chunkSz (out : List Byte) : (putDst out s).chunkSz = s.chunkSz := rfl
@[simp] theorem putDst_srcLen (out : List Byte) : (putDst out s).srcLen = s.srcLen := rfl
@[simp] theorem putDst_dstLen (out : List Byte) : (putDst out s).dstLen = BitVec.ofNat 64 out.length := rfl
@[simp] theorem putDst_crcr (out : List Byte) : (putDst out s).crcr = s.crcr := rfl
@[simp] theorem putDst_wLen (out : List Byte) : (putDst out s).wLen = s.wLen := rfl
@[simp] theorem putDst_wAcc (out : List Byte) : (putDst out s).wAcc = s.wAcc := rfl
@[simp] theorem putDst_wN (out : List Byte) : (putDst out s).wN = s.wN := rfl
@[simp] theorem putDst_rSel (out : List Byte) : (putDst out s).rSel = s.rSel := rfl
@[simp] theorem putDst_rByte (out : List Byte) : (putDst out s).rByte = s.rByte := rfl
@[simp] theorem putDst_rBit (out : List Byte) : (putDst out s).rBit = s.rBit := rfl
@[simp] theorem putDst_tokCnt (out : List Byte) : (putDst out s).tokCnt = s.tokCnt := rfl
@[simp] theorem putDst_nodeCnt (out : List Byte) : (putDst out s).nodeCnt = s.nodeCnt := rfl
@[simp] theorem putDst_root (out : List Byte) : (putDst out s).root = s.root := rfl
@[simp] theorem putDst_src (out : List Byte) : (putDst out s).src = s.src := rfl
@[simp] theorem putDst_dst (out : List Byte) : (putDst out s).dst = Sparse.ofList out := rfl
@[simp] theorem putDst_bsw (out : List Byte) : (putDst out s).bsw = s.bsw := rfl
@[simp] theorem putDst_freq (out : List Byte) : (putDst out s).freq = s.freq := rfl
@[simp] theorem putDst_len (out : List Byte) : (putDst out s).len = s.len := rfl
@[simp] theorem putDst_tcode (out : List Byte) : (putDst out s).tcode = s.tcode := rfl
@[simp] theorem putDst_code (out : List Byte) : (putDst out s).code = s.code := rfl
@[simp] theorem putDst_node (out : List Byte) : (putDst out s).node = s.node := rfl
@[simp] theorem putDst_tok (out : List Byte) : (putDst out s).tok = s.tok := rfl
@[simp] theorem putDst_inputs (out : List Byte) : (putDst out s).inputs = s.inputs := rfl
@[simp] theorem putDst_answer (out : List Byte) : (putDst out s).answer = s.answer := rfl
@[simp] theorem putDst_draws (out : List Byte) : (putDst out s).draws = s.draws := rfl

/-! ### failDst

A failing producer empties `DST` (60_exceptions.md R234). -/

@[simp] theorem failDst_cap : (failDst s).cap = s.cap := rfl
@[simp] theorem failDst_err : (failDst s).err = s.err := rfl
@[simp] theorem failDst_errInfo : (failDst s).errInfo = s.errInfo := rfl
@[simp] theorem failDst_errCmd : (failDst s).errCmd = s.errCmd := rfl
@[simp] theorem failDst_ctl : (failDst s).ctl = s.ctl := rfl
@[simp] theorem failDst_arg0 : (failDst s).arg0 = s.arg0 := rfl
@[simp] theorem failDst_res : (failDst s).res = s.res := rfl
@[simp] theorem failDst_window : (failDst s).window = s.window := rfl
@[simp] theorem failDst_lookahead : (failDst s).lookahead = s.lookahead := rfl
@[simp] theorem failDst_symCnt : (failDst s).symCnt = s.symCnt := rfl
@[simp] theorem failDst_origLen : (failDst s).origLen = s.origLen := rfl
@[simp] theorem failDst_chunkSz : (failDst s).chunkSz = s.chunkSz := rfl
@[simp] theorem failDst_srcLen : (failDst s).srcLen = s.srcLen := rfl
@[simp] theorem failDst_dstLen : (failDst s).dstLen = 0#64 := rfl
@[simp] theorem failDst_crcr : (failDst s).crcr = s.crcr := rfl
@[simp] theorem failDst_wLen : (failDst s).wLen = s.wLen := rfl
@[simp] theorem failDst_wAcc : (failDst s).wAcc = s.wAcc := rfl
@[simp] theorem failDst_wN : (failDst s).wN = s.wN := rfl
@[simp] theorem failDst_rSel : (failDst s).rSel = s.rSel := rfl
@[simp] theorem failDst_rByte : (failDst s).rByte = s.rByte := rfl
@[simp] theorem failDst_rBit : (failDst s).rBit = s.rBit := rfl
@[simp] theorem failDst_tokCnt : (failDst s).tokCnt = s.tokCnt := rfl
@[simp] theorem failDst_nodeCnt : (failDst s).nodeCnt = s.nodeCnt := rfl
@[simp] theorem failDst_root : (failDst s).root = s.root := rfl
@[simp] theorem failDst_src : (failDst s).src = s.src := rfl
@[simp] theorem failDst_dst : (failDst s).dst = [] := rfl
@[simp] theorem failDst_bsw : (failDst s).bsw = s.bsw := rfl
@[simp] theorem failDst_freq : (failDst s).freq = s.freq := rfl
@[simp] theorem failDst_len : (failDst s).len = s.len := rfl
@[simp] theorem failDst_tcode : (failDst s).tcode = s.tcode := rfl
@[simp] theorem failDst_code : (failDst s).code = s.code := rfl
@[simp] theorem failDst_node : (failDst s).node = s.node := rfl
@[simp] theorem failDst_tok : (failDst s).tok = s.tok := rfl
@[simp] theorem failDst_inputs : (failDst s).inputs = s.inputs := rfl
@[simp] theorem failDst_answer : (failDst s).answer = s.answer := rfl
@[simp] theorem failDst_draws : (failDst s).draws = s.draws := rfl

/-! ### clearWriter

The writer made empty (40_bitstream.md R101). -/

@[simp] theorem clearWriter_cap : (clearWriter s).cap = s.cap := rfl
@[simp] theorem clearWriter_err : (clearWriter s).err = s.err := rfl
@[simp] theorem clearWriter_errInfo : (clearWriter s).errInfo = s.errInfo := rfl
@[simp] theorem clearWriter_errCmd : (clearWriter s).errCmd = s.errCmd := rfl
@[simp] theorem clearWriter_ctl : (clearWriter s).ctl = s.ctl := rfl
@[simp] theorem clearWriter_arg0 : (clearWriter s).arg0 = s.arg0 := rfl
@[simp] theorem clearWriter_res : (clearWriter s).res = s.res := rfl
@[simp] theorem clearWriter_window : (clearWriter s).window = s.window := rfl
@[simp] theorem clearWriter_lookahead : (clearWriter s).lookahead = s.lookahead := rfl
@[simp] theorem clearWriter_symCnt : (clearWriter s).symCnt = s.symCnt := rfl
@[simp] theorem clearWriter_origLen : (clearWriter s).origLen = s.origLen := rfl
@[simp] theorem clearWriter_chunkSz : (clearWriter s).chunkSz = s.chunkSz := rfl
@[simp] theorem clearWriter_srcLen : (clearWriter s).srcLen = s.srcLen := rfl
@[simp] theorem clearWriter_dstLen : (clearWriter s).dstLen = s.dstLen := rfl
@[simp] theorem clearWriter_crcr : (clearWriter s).crcr = s.crcr := rfl
@[simp] theorem clearWriter_wLen : (clearWriter s).wLen = 0#64 := rfl
@[simp] theorem clearWriter_wAcc : (clearWriter s).wAcc = 0#8 := rfl
@[simp] theorem clearWriter_wN : (clearWriter s).wN = 0#3 := rfl
@[simp] theorem clearWriter_rSel : (clearWriter s).rSel = s.rSel := rfl
@[simp] theorem clearWriter_rByte : (clearWriter s).rByte = s.rByte := rfl
@[simp] theorem clearWriter_rBit : (clearWriter s).rBit = s.rBit := rfl
@[simp] theorem clearWriter_tokCnt : (clearWriter s).tokCnt = s.tokCnt := rfl
@[simp] theorem clearWriter_nodeCnt : (clearWriter s).nodeCnt = s.nodeCnt := rfl
@[simp] theorem clearWriter_root : (clearWriter s).root = s.root := rfl
@[simp] theorem clearWriter_src : (clearWriter s).src = s.src := rfl
@[simp] theorem clearWriter_dst : (clearWriter s).dst = s.dst := rfl
@[simp] theorem clearWriter_bsw : (clearWriter s).bsw = [] := rfl
@[simp] theorem clearWriter_freq : (clearWriter s).freq = s.freq := rfl
@[simp] theorem clearWriter_len : (clearWriter s).len = s.len := rfl
@[simp] theorem clearWriter_tcode : (clearWriter s).tcode = s.tcode := rfl
@[simp] theorem clearWriter_code : (clearWriter s).code = s.code := rfl
@[simp] theorem clearWriter_node : (clearWriter s).node = s.node := rfl
@[simp] theorem clearWriter_tok : (clearWriter s).tok = s.tok := rfl
@[simp] theorem clearWriter_inputs : (clearWriter s).inputs = s.inputs := rfl
@[simp] theorem clearWriter_answer : (clearWriter s).answer = s.answer := rfl
@[simp] theorem clearWriter_draws : (clearWriter s).draws = s.draws := rfl

/-! ### setCursor

The cursor moved (40_bitstream.md R105). -/

@[simp] theorem setCursor_cap (b : BitVec 64) (k : BitVec 3) : (setCursor b k s).cap = s.cap := rfl
@[simp] theorem setCursor_err (b : BitVec 64) (k : BitVec 3) : (setCursor b k s).err = s.err := rfl
@[simp] theorem setCursor_errInfo (b : BitVec 64) (k : BitVec 3) : (setCursor b k s).errInfo = s.errInfo := rfl
@[simp] theorem setCursor_errCmd (b : BitVec 64) (k : BitVec 3) : (setCursor b k s).errCmd = s.errCmd := rfl
@[simp] theorem setCursor_ctl (b : BitVec 64) (k : BitVec 3) : (setCursor b k s).ctl = s.ctl := rfl
@[simp] theorem setCursor_arg0 (b : BitVec 64) (k : BitVec 3) : (setCursor b k s).arg0 = s.arg0 := rfl
@[simp] theorem setCursor_res (b : BitVec 64) (k : BitVec 3) : (setCursor b k s).res = s.res := rfl
@[simp] theorem setCursor_window (b : BitVec 64) (k : BitVec 3) : (setCursor b k s).window = s.window := rfl
@[simp] theorem setCursor_lookahead (b : BitVec 64) (k : BitVec 3) : (setCursor b k s).lookahead = s.lookahead := rfl
@[simp] theorem setCursor_symCnt (b : BitVec 64) (k : BitVec 3) : (setCursor b k s).symCnt = s.symCnt := rfl
@[simp] theorem setCursor_origLen (b : BitVec 64) (k : BitVec 3) : (setCursor b k s).origLen = s.origLen := rfl
@[simp] theorem setCursor_chunkSz (b : BitVec 64) (k : BitVec 3) : (setCursor b k s).chunkSz = s.chunkSz := rfl
@[simp] theorem setCursor_srcLen (b : BitVec 64) (k : BitVec 3) : (setCursor b k s).srcLen = s.srcLen := rfl
@[simp] theorem setCursor_dstLen (b : BitVec 64) (k : BitVec 3) : (setCursor b k s).dstLen = s.dstLen := rfl
@[simp] theorem setCursor_crcr (b : BitVec 64) (k : BitVec 3) : (setCursor b k s).crcr = s.crcr := rfl
@[simp] theorem setCursor_wLen (b : BitVec 64) (k : BitVec 3) : (setCursor b k s).wLen = s.wLen := rfl
@[simp] theorem setCursor_wAcc (b : BitVec 64) (k : BitVec 3) : (setCursor b k s).wAcc = s.wAcc := rfl
@[simp] theorem setCursor_wN (b : BitVec 64) (k : BitVec 3) : (setCursor b k s).wN = s.wN := rfl
@[simp] theorem setCursor_rSel (b : BitVec 64) (k : BitVec 3) : (setCursor b k s).rSel = s.rSel := rfl
@[simp] theorem setCursor_rByte (b : BitVec 64) (k : BitVec 3) : (setCursor b k s).rByte = b := rfl
@[simp] theorem setCursor_rBit (b : BitVec 64) (k : BitVec 3) : (setCursor b k s).rBit = k := rfl
@[simp] theorem setCursor_tokCnt (b : BitVec 64) (k : BitVec 3) : (setCursor b k s).tokCnt = s.tokCnt := rfl
@[simp] theorem setCursor_nodeCnt (b : BitVec 64) (k : BitVec 3) : (setCursor b k s).nodeCnt = s.nodeCnt := rfl
@[simp] theorem setCursor_root (b : BitVec 64) (k : BitVec 3) : (setCursor b k s).root = s.root := rfl
@[simp] theorem setCursor_src (b : BitVec 64) (k : BitVec 3) : (setCursor b k s).src = s.src := rfl
@[simp] theorem setCursor_dst (b : BitVec 64) (k : BitVec 3) : (setCursor b k s).dst = s.dst := rfl
@[simp] theorem setCursor_bsw (b : BitVec 64) (k : BitVec 3) : (setCursor b k s).bsw = s.bsw := rfl
@[simp] theorem setCursor_freq (b : BitVec 64) (k : BitVec 3) : (setCursor b k s).freq = s.freq := rfl
@[simp] theorem setCursor_len (b : BitVec 64) (k : BitVec 3) : (setCursor b k s).len = s.len := rfl
@[simp] theorem setCursor_tcode (b : BitVec 64) (k : BitVec 3) : (setCursor b k s).tcode = s.tcode := rfl
@[simp] theorem setCursor_code (b : BitVec 64) (k : BitVec 3) : (setCursor b k s).code = s.code := rfl
@[simp] theorem setCursor_node (b : BitVec 64) (k : BitVec 3) : (setCursor b k s).node = s.node := rfl
@[simp] theorem setCursor_tok (b : BitVec 64) (k : BitVec 3) : (setCursor b k s).tok = s.tok := rfl
@[simp] theorem setCursor_inputs (b : BitVec 64) (k : BitVec 3) : (setCursor b k s).inputs = s.inputs := rfl
@[simp] theorem setCursor_answer (b : BitVec 64) (k : BitVec 3) : (setCursor b k s).answer = s.answer := rfl
@[simp] theorem setCursor_draws (b : BitVec 64) (k : BitVec 3) : (setCursor b k s).draws = s.draws := rfl

/-! ### setRes

`RES` written (10_state.md R14). -/

@[simp] theorem setRes_cap (v : BitVec 64) : (setRes v s).cap = s.cap := rfl
@[simp] theorem setRes_err (v : BitVec 64) : (setRes v s).err = s.err := rfl
@[simp] theorem setRes_errInfo (v : BitVec 64) : (setRes v s).errInfo = s.errInfo := rfl
@[simp] theorem setRes_errCmd (v : BitVec 64) : (setRes v s).errCmd = s.errCmd := rfl
@[simp] theorem setRes_ctl (v : BitVec 64) : (setRes v s).ctl = s.ctl := rfl
@[simp] theorem setRes_arg0 (v : BitVec 64) : (setRes v s).arg0 = s.arg0 := rfl
@[simp] theorem setRes_res (v : BitVec 64) : (setRes v s).res = v := rfl
@[simp] theorem setRes_window (v : BitVec 64) : (setRes v s).window = s.window := rfl
@[simp] theorem setRes_lookahead (v : BitVec 64) : (setRes v s).lookahead = s.lookahead := rfl
@[simp] theorem setRes_symCnt (v : BitVec 64) : (setRes v s).symCnt = s.symCnt := rfl
@[simp] theorem setRes_origLen (v : BitVec 64) : (setRes v s).origLen = s.origLen := rfl
@[simp] theorem setRes_chunkSz (v : BitVec 64) : (setRes v s).chunkSz = s.chunkSz := rfl
@[simp] theorem setRes_srcLen (v : BitVec 64) : (setRes v s).srcLen = s.srcLen := rfl
@[simp] theorem setRes_dstLen (v : BitVec 64) : (setRes v s).dstLen = s.dstLen := rfl
@[simp] theorem setRes_crcr (v : BitVec 64) : (setRes v s).crcr = s.crcr := rfl
@[simp] theorem setRes_wLen (v : BitVec 64) : (setRes v s).wLen = s.wLen := rfl
@[simp] theorem setRes_wAcc (v : BitVec 64) : (setRes v s).wAcc = s.wAcc := rfl
@[simp] theorem setRes_wN (v : BitVec 64) : (setRes v s).wN = s.wN := rfl
@[simp] theorem setRes_rSel (v : BitVec 64) : (setRes v s).rSel = s.rSel := rfl
@[simp] theorem setRes_rByte (v : BitVec 64) : (setRes v s).rByte = s.rByte := rfl
@[simp] theorem setRes_rBit (v : BitVec 64) : (setRes v s).rBit = s.rBit := rfl
@[simp] theorem setRes_tokCnt (v : BitVec 64) : (setRes v s).tokCnt = s.tokCnt := rfl
@[simp] theorem setRes_nodeCnt (v : BitVec 64) : (setRes v s).nodeCnt = s.nodeCnt := rfl
@[simp] theorem setRes_root (v : BitVec 64) : (setRes v s).root = s.root := rfl
@[simp] theorem setRes_src (v : BitVec 64) : (setRes v s).src = s.src := rfl
@[simp] theorem setRes_dst (v : BitVec 64) : (setRes v s).dst = s.dst := rfl
@[simp] theorem setRes_bsw (v : BitVec 64) : (setRes v s).bsw = s.bsw := rfl
@[simp] theorem setRes_freq (v : BitVec 64) : (setRes v s).freq = s.freq := rfl
@[simp] theorem setRes_len (v : BitVec 64) : (setRes v s).len = s.len := rfl
@[simp] theorem setRes_tcode (v : BitVec 64) : (setRes v s).tcode = s.tcode := rfl
@[simp] theorem setRes_code (v : BitVec 64) : (setRes v s).code = s.code := rfl
@[simp] theorem setRes_node (v : BitVec 64) : (setRes v s).node = s.node := rfl
@[simp] theorem setRes_tok (v : BitVec 64) : (setRes v s).tok = s.tok := rfl
@[simp] theorem setRes_inputs (v : BitVec 64) : (setRes v s).inputs = s.inputs := rfl
@[simp] theorem setRes_answer (v : BitVec 64) : (setRes v s).answer = s.answer := rfl
@[simp] theorem setRes_draws (v : BitVec 64) : (setRes v s).draws = s.draws := rfl

/-! ### putTokens

Tokens stored (42_lz77.md R134). -/

@[simp] theorem putTokens_cap (toks : List Token) : (putTokens toks s).cap = s.cap := rfl
@[simp] theorem putTokens_err (toks : List Token) : (putTokens toks s).err = s.err := rfl
@[simp] theorem putTokens_errInfo (toks : List Token) : (putTokens toks s).errInfo = s.errInfo := rfl
@[simp] theorem putTokens_errCmd (toks : List Token) : (putTokens toks s).errCmd = s.errCmd := rfl
@[simp] theorem putTokens_ctl (toks : List Token) : (putTokens toks s).ctl = s.ctl := rfl
@[simp] theorem putTokens_arg0 (toks : List Token) : (putTokens toks s).arg0 = s.arg0 := rfl
@[simp] theorem putTokens_res (toks : List Token) : (putTokens toks s).res = s.res := rfl
@[simp] theorem putTokens_window (toks : List Token) : (putTokens toks s).window = s.window := rfl
@[simp] theorem putTokens_lookahead (toks : List Token) : (putTokens toks s).lookahead = s.lookahead := rfl
@[simp] theorem putTokens_symCnt (toks : List Token) : (putTokens toks s).symCnt = s.symCnt := rfl
@[simp] theorem putTokens_origLen (toks : List Token) : (putTokens toks s).origLen = s.origLen := rfl
@[simp] theorem putTokens_chunkSz (toks : List Token) : (putTokens toks s).chunkSz = s.chunkSz := rfl
@[simp] theorem putTokens_srcLen (toks : List Token) : (putTokens toks s).srcLen = s.srcLen := rfl
@[simp] theorem putTokens_dstLen (toks : List Token) : (putTokens toks s).dstLen = s.dstLen := rfl
@[simp] theorem putTokens_crcr (toks : List Token) : (putTokens toks s).crcr = s.crcr := rfl
@[simp] theorem putTokens_wLen (toks : List Token) : (putTokens toks s).wLen = s.wLen := rfl
@[simp] theorem putTokens_wAcc (toks : List Token) : (putTokens toks s).wAcc = s.wAcc := rfl
@[simp] theorem putTokens_wN (toks : List Token) : (putTokens toks s).wN = s.wN := rfl
@[simp] theorem putTokens_rSel (toks : List Token) : (putTokens toks s).rSel = s.rSel := rfl
@[simp] theorem putTokens_rByte (toks : List Token) : (putTokens toks s).rByte = s.rByte := rfl
@[simp] theorem putTokens_rBit (toks : List Token) : (putTokens toks s).rBit = s.rBit := rfl
@[simp] theorem putTokens_tokCnt (toks : List Token) : (putTokens toks s).tokCnt = BitVec.ofNat 64 toks.length := rfl
@[simp] theorem putTokens_nodeCnt (toks : List Token) : (putTokens toks s).nodeCnt = s.nodeCnt := rfl
@[simp] theorem putTokens_root (toks : List Token) : (putTokens toks s).root = s.root := rfl
@[simp] theorem putTokens_src (toks : List Token) : (putTokens toks s).src = s.src := rfl
@[simp] theorem putTokens_dst (toks : List Token) : (putTokens toks s).dst = s.dst := rfl
@[simp] theorem putTokens_bsw (toks : List Token) : (putTokens toks s).bsw = s.bsw := rfl
@[simp] theorem putTokens_freq (toks : List Token) : (putTokens toks s).freq = s.freq := rfl
@[simp] theorem putTokens_len (toks : List Token) : (putTokens toks s).len = s.len := rfl
@[simp] theorem putTokens_tcode (toks : List Token) : (putTokens toks s).tcode = s.tcode := rfl
@[simp] theorem putTokens_code (toks : List Token) : (putTokens toks s).code = s.code := rfl
@[simp] theorem putTokens_node (toks : List Token) : (putTokens toks s).node = s.node := rfl
@[simp] theorem putTokens_tok (toks : List Token) : (putTokens toks s).tok = Sparse.overwrite toks s.tok := rfl
@[simp] theorem putTokens_inputs (toks : List Token) : (putTokens toks s).inputs = s.inputs := rfl
@[simp] theorem putTokens_answer (toks : List Token) : (putTokens toks s).answer = s.answer := rfl
@[simp] theorem putTokens_draws (toks : List Token) : (putTokens toks s).draws = s.draws := rfl

/-! ### failTokens

A failing token producer (60_exceptions.md R234). -/

@[simp] theorem failTokens_cap : (failTokens s).cap = s.cap := rfl
@[simp] theorem failTokens_err : (failTokens s).err = s.err := rfl
@[simp] theorem failTokens_errInfo : (failTokens s).errInfo = s.errInfo := rfl
@[simp] theorem failTokens_errCmd : (failTokens s).errCmd = s.errCmd := rfl
@[simp] theorem failTokens_ctl : (failTokens s).ctl = s.ctl := rfl
@[simp] theorem failTokens_arg0 : (failTokens s).arg0 = s.arg0 := rfl
@[simp] theorem failTokens_res : (failTokens s).res = s.res := rfl
@[simp] theorem failTokens_window : (failTokens s).window = s.window := rfl
@[simp] theorem failTokens_lookahead : (failTokens s).lookahead = s.lookahead := rfl
@[simp] theorem failTokens_symCnt : (failTokens s).symCnt = s.symCnt := rfl
@[simp] theorem failTokens_origLen : (failTokens s).origLen = s.origLen := rfl
@[simp] theorem failTokens_chunkSz : (failTokens s).chunkSz = s.chunkSz := rfl
@[simp] theorem failTokens_srcLen : (failTokens s).srcLen = s.srcLen := rfl
@[simp] theorem failTokens_dstLen : (failTokens s).dstLen = s.dstLen := rfl
@[simp] theorem failTokens_crcr : (failTokens s).crcr = s.crcr := rfl
@[simp] theorem failTokens_wLen : (failTokens s).wLen = s.wLen := rfl
@[simp] theorem failTokens_wAcc : (failTokens s).wAcc = s.wAcc := rfl
@[simp] theorem failTokens_wN : (failTokens s).wN = s.wN := rfl
@[simp] theorem failTokens_rSel : (failTokens s).rSel = s.rSel := rfl
@[simp] theorem failTokens_rByte : (failTokens s).rByte = s.rByte := rfl
@[simp] theorem failTokens_rBit : (failTokens s).rBit = s.rBit := rfl
@[simp] theorem failTokens_tokCnt : (failTokens s).tokCnt = 0#64 := rfl
@[simp] theorem failTokens_nodeCnt : (failTokens s).nodeCnt = s.nodeCnt := rfl
@[simp] theorem failTokens_root : (failTokens s).root = s.root := rfl
@[simp] theorem failTokens_src : (failTokens s).src = s.src := rfl
@[simp] theorem failTokens_dst : (failTokens s).dst = s.dst := rfl
@[simp] theorem failTokens_bsw : (failTokens s).bsw = s.bsw := rfl
@[simp] theorem failTokens_freq : (failTokens s).freq = s.freq := rfl
@[simp] theorem failTokens_len : (failTokens s).len = s.len := rfl
@[simp] theorem failTokens_tcode : (failTokens s).tcode = s.tcode := rfl
@[simp] theorem failTokens_code : (failTokens s).code = s.code := rfl
@[simp] theorem failTokens_node : (failTokens s).node = s.node := rfl
@[simp] theorem failTokens_tok : (failTokens s).tok = [] := rfl
@[simp] theorem failTokens_inputs : (failTokens s).inputs = s.inputs := rfl
@[simp] theorem failTokens_answer : (failTokens s).answer = s.answer := rfl
@[simp] theorem failTokens_draws : (failTokens s).draws = s.draws := rfl

/-! ### encodedState

A successful frame encoder (44_frame.md R199). -/

@[simp] theorem encodedState_cap (f : List Byte) (n : Nat) (c : BitVec 32) : (encodedState f n c s).cap = s.cap := rfl
@[simp] theorem encodedState_err (f : List Byte) (n : Nat) (c : BitVec 32) : (encodedState f n c s).err = s.err := rfl
@[simp] theorem encodedState_errInfo (f : List Byte) (n : Nat) (c : BitVec 32) : (encodedState f n c s).errInfo = s.errInfo := rfl
@[simp] theorem encodedState_errCmd (f : List Byte) (n : Nat) (c : BitVec 32) : (encodedState f n c s).errCmd = s.errCmd := rfl
@[simp] theorem encodedState_ctl (f : List Byte) (n : Nat) (c : BitVec 32) : (encodedState f n c s).ctl = s.ctl := rfl
@[simp] theorem encodedState_arg0 (f : List Byte) (n : Nat) (c : BitVec 32) : (encodedState f n c s).arg0 = s.arg0 := rfl
@[simp] theorem encodedState_res (f : List Byte) (n : Nat) (c : BitVec 32) : (encodedState f n c s).res = s.res := rfl
@[simp] theorem encodedState_window (f : List Byte) (n : Nat) (c : BitVec 32) : (encodedState f n c s).window = s.window := rfl
@[simp] theorem encodedState_lookahead (f : List Byte) (n : Nat) (c : BitVec 32) : (encodedState f n c s).lookahead = s.lookahead := rfl
@[simp] theorem encodedState_symCnt (f : List Byte) (n : Nat) (c : BitVec 32) : (encodedState f n c s).symCnt = BitVec.ofNat 64 n := rfl
@[simp] theorem encodedState_origLen (f : List Byte) (n : Nat) (c : BitVec 32) : (encodedState f n c s).origLen = s.srcLen := rfl
@[simp] theorem encodedState_chunkSz (f : List Byte) (n : Nat) (c : BitVec 32) : (encodedState f n c s).chunkSz = s.chunkSz := rfl
@[simp] theorem encodedState_srcLen (f : List Byte) (n : Nat) (c : BitVec 32) : (encodedState f n c s).srcLen = s.srcLen := rfl
@[simp] theorem encodedState_dstLen (f : List Byte) (n : Nat) (c : BitVec 32) : (encodedState f n c s).dstLen = BitVec.ofNat 64 f.length := rfl
@[simp] theorem encodedState_crcr (f : List Byte) (n : Nat) (c : BitVec 32) : (encodedState f n c s).crcr = c := rfl
@[simp] theorem encodedState_wLen (f : List Byte) (n : Nat) (c : BitVec 32) : (encodedState f n c s).wLen = s.wLen := rfl
@[simp] theorem encodedState_wAcc (f : List Byte) (n : Nat) (c : BitVec 32) : (encodedState f n c s).wAcc = s.wAcc := rfl
@[simp] theorem encodedState_wN (f : List Byte) (n : Nat) (c : BitVec 32) : (encodedState f n c s).wN = s.wN := rfl
@[simp] theorem encodedState_rSel (f : List Byte) (n : Nat) (c : BitVec 32) : (encodedState f n c s).rSel = s.rSel := rfl
@[simp] theorem encodedState_rByte (f : List Byte) (n : Nat) (c : BitVec 32) : (encodedState f n c s).rByte = s.rByte := rfl
@[simp] theorem encodedState_rBit (f : List Byte) (n : Nat) (c : BitVec 32) : (encodedState f n c s).rBit = s.rBit := rfl
@[simp] theorem encodedState_tokCnt (f : List Byte) (n : Nat) (c : BitVec 32) : (encodedState f n c s).tokCnt = s.tokCnt := rfl
@[simp] theorem encodedState_nodeCnt (f : List Byte) (n : Nat) (c : BitVec 32) : (encodedState f n c s).nodeCnt = s.nodeCnt := rfl
@[simp] theorem encodedState_root (f : List Byte) (n : Nat) (c : BitVec 32) : (encodedState f n c s).root = s.root := rfl
@[simp] theorem encodedState_src (f : List Byte) (n : Nat) (c : BitVec 32) : (encodedState f n c s).src = s.src := rfl
@[simp] theorem encodedState_dst (f : List Byte) (n : Nat) (c : BitVec 32) : (encodedState f n c s).dst = Sparse.ofList f := rfl
@[simp] theorem encodedState_bsw (f : List Byte) (n : Nat) (c : BitVec 32) : (encodedState f n c s).bsw = s.bsw := rfl
@[simp] theorem encodedState_freq (f : List Byte) (n : Nat) (c : BitVec 32) : (encodedState f n c s).freq = s.freq := rfl
@[simp] theorem encodedState_len (f : List Byte) (n : Nat) (c : BitVec 32) : (encodedState f n c s).len = s.len := rfl
@[simp] theorem encodedState_tcode (f : List Byte) (n : Nat) (c : BitVec 32) : (encodedState f n c s).tcode = s.tcode := rfl
@[simp] theorem encodedState_code (f : List Byte) (n : Nat) (c : BitVec 32) : (encodedState f n c s).code = s.code := rfl
@[simp] theorem encodedState_node (f : List Byte) (n : Nat) (c : BitVec 32) : (encodedState f n c s).node = s.node := rfl
@[simp] theorem encodedState_tok (f : List Byte) (n : Nat) (c : BitVec 32) : (encodedState f n c s).tok = s.tok := rfl
@[simp] theorem encodedState_inputs (f : List Byte) (n : Nat) (c : BitVec 32) : (encodedState f n c s).inputs = s.inputs := rfl
@[simp] theorem encodedState_answer (f : List Byte) (n : Nat) (c : BitVec 32) : (encodedState f n c s).answer = s.answer := rfl
@[simp] theorem encodedState_draws (f : List Byte) (n : Nat) (c : BitVec 32) : (encodedState f n c s).draws = s.draws := rfl

/-! ### takeInput

A move taken off the list (log entries 1, 4). -/

@[simp] theorem takeInput_cap (rest : List Input) : (takeInput rest s).cap = s.cap := rfl
@[simp] theorem takeInput_err (rest : List Input) : (takeInput rest s).err = s.err := rfl
@[simp] theorem takeInput_errInfo (rest : List Input) : (takeInput rest s).errInfo = s.errInfo := rfl
@[simp] theorem takeInput_errCmd (rest : List Input) : (takeInput rest s).errCmd = s.errCmd := rfl
@[simp] theorem takeInput_ctl (rest : List Input) : (takeInput rest s).ctl = s.ctl := rfl
@[simp] theorem takeInput_arg0 (rest : List Input) : (takeInput rest s).arg0 = s.arg0 := rfl
@[simp] theorem takeInput_res (rest : List Input) : (takeInput rest s).res = s.res := rfl
@[simp] theorem takeInput_window (rest : List Input) : (takeInput rest s).window = s.window := rfl
@[simp] theorem takeInput_lookahead (rest : List Input) : (takeInput rest s).lookahead = s.lookahead := rfl
@[simp] theorem takeInput_symCnt (rest : List Input) : (takeInput rest s).symCnt = s.symCnt := rfl
@[simp] theorem takeInput_origLen (rest : List Input) : (takeInput rest s).origLen = s.origLen := rfl
@[simp] theorem takeInput_chunkSz (rest : List Input) : (takeInput rest s).chunkSz = s.chunkSz := rfl
@[simp] theorem takeInput_srcLen (rest : List Input) : (takeInput rest s).srcLen = s.srcLen := rfl
@[simp] theorem takeInput_dstLen (rest : List Input) : (takeInput rest s).dstLen = s.dstLen := rfl
@[simp] theorem takeInput_crcr (rest : List Input) : (takeInput rest s).crcr = s.crcr := rfl
@[simp] theorem takeInput_wLen (rest : List Input) : (takeInput rest s).wLen = s.wLen := rfl
@[simp] theorem takeInput_wAcc (rest : List Input) : (takeInput rest s).wAcc = s.wAcc := rfl
@[simp] theorem takeInput_wN (rest : List Input) : (takeInput rest s).wN = s.wN := rfl
@[simp] theorem takeInput_rSel (rest : List Input) : (takeInput rest s).rSel = s.rSel := rfl
@[simp] theorem takeInput_rByte (rest : List Input) : (takeInput rest s).rByte = s.rByte := rfl
@[simp] theorem takeInput_rBit (rest : List Input) : (takeInput rest s).rBit = s.rBit := rfl
@[simp] theorem takeInput_tokCnt (rest : List Input) : (takeInput rest s).tokCnt = s.tokCnt := rfl
@[simp] theorem takeInput_nodeCnt (rest : List Input) : (takeInput rest s).nodeCnt = s.nodeCnt := rfl
@[simp] theorem takeInput_root (rest : List Input) : (takeInput rest s).root = s.root := rfl
@[simp] theorem takeInput_src (rest : List Input) : (takeInput rest s).src = s.src := rfl
@[simp] theorem takeInput_dst (rest : List Input) : (takeInput rest s).dst = s.dst := rfl
@[simp] theorem takeInput_bsw (rest : List Input) : (takeInput rest s).bsw = s.bsw := rfl
@[simp] theorem takeInput_freq (rest : List Input) : (takeInput rest s).freq = s.freq := rfl
@[simp] theorem takeInput_len (rest : List Input) : (takeInput rest s).len = s.len := rfl
@[simp] theorem takeInput_tcode (rest : List Input) : (takeInput rest s).tcode = s.tcode := rfl
@[simp] theorem takeInput_code (rest : List Input) : (takeInput rest s).code = s.code := rfl
@[simp] theorem takeInput_node (rest : List Input) : (takeInput rest s).node = s.node := rfl
@[simp] theorem takeInput_tok (rest : List Input) : (takeInput rest s).tok = s.tok := rfl
@[simp] theorem takeInput_inputs (rest : List Input) : (takeInput rest s).inputs = rest := rfl
@[simp] theorem takeInput_answer (rest : List Input) : (takeInput rest s).answer = s.answer := rfl
@[simp] theorem takeInput_draws (rest : List Input) : (takeInput rest s).draws = s.draws + 1 := rfl

/-! ### resetBlock

The reset of the block (10_state.md R44): every field at its reset value, the model's own fields kept. -/

@[simp] theorem resetBlock_cap : (resetBlock s).cap = s.cap := rfl
@[simp] theorem resetBlock_err : (resetBlock s).err = 0#8 := rfl
@[simp] theorem resetBlock_errInfo : (resetBlock s).errInfo = 0#64 := rfl
@[simp] theorem resetBlock_errCmd : (resetBlock s).errCmd = 0#32 := rfl
@[simp] theorem resetBlock_ctl : (resetBlock s).ctl = 1#1 := rfl
@[simp] theorem resetBlock_arg0 : (resetBlock s).arg0 = 0#64 := rfl
@[simp] theorem resetBlock_res : (resetBlock s).res = 0#64 := rfl
@[simp] theorem resetBlock_window : (resetBlock s).window = 0#16 := rfl
@[simp] theorem resetBlock_lookahead : (resetBlock s).lookahead = 0#16 := rfl
@[simp] theorem resetBlock_symCnt : (resetBlock s).symCnt = 0#64 := rfl
@[simp] theorem resetBlock_origLen : (resetBlock s).origLen = 0#64 := rfl
@[simp] theorem resetBlock_chunkSz : (resetBlock s).chunkSz = 0#64 := rfl
@[simp] theorem resetBlock_srcLen : (resetBlock s).srcLen = 0#64 := rfl
@[simp] theorem resetBlock_dstLen : (resetBlock s).dstLen = 0#64 := rfl
@[simp] theorem resetBlock_crcr : (resetBlock s).crcr = 0#32 := rfl
@[simp] theorem resetBlock_wLen : (resetBlock s).wLen = 0#64 := rfl
@[simp] theorem resetBlock_wAcc : (resetBlock s).wAcc = 0#8 := rfl
@[simp] theorem resetBlock_wN : (resetBlock s).wN = 0#3 := rfl
@[simp] theorem resetBlock_rSel : (resetBlock s).rSel = 0#2 := rfl
@[simp] theorem resetBlock_rByte : (resetBlock s).rByte = 0#64 := rfl
@[simp] theorem resetBlock_rBit : (resetBlock s).rBit = 0#3 := rfl
@[simp] theorem resetBlock_tokCnt : (resetBlock s).tokCnt = 0#64 := rfl
@[simp] theorem resetBlock_nodeCnt : (resetBlock s).nodeCnt = 0#10 := rfl
@[simp] theorem resetBlock_root : (resetBlock s).root = 0x3FF#10 := rfl
@[simp] theorem resetBlock_src : (resetBlock s).src = [] := rfl
@[simp] theorem resetBlock_dst : (resetBlock s).dst = [] := rfl
@[simp] theorem resetBlock_bsw : (resetBlock s).bsw = [] := rfl
@[simp] theorem resetBlock_freq : (resetBlock s).freq = Table.fill 0#64 := rfl
@[simp] theorem resetBlock_len : (resetBlock s).len = Table.fill 0#8 := rfl
@[simp] theorem resetBlock_tcode : (resetBlock s).tcode = Table.fill ⟨0#8, 0⟩ := rfl
@[simp] theorem resetBlock_code : (resetBlock s).code = Table.fill ⟨0#8, 0⟩ := rfl
@[simp] theorem resetBlock_node : (resetBlock s).node = [] := rfl
@[simp] theorem resetBlock_tok : (resetBlock s).tok = [] := rfl
@[simp] theorem resetBlock_inputs : (resetBlock s).inputs = s.inputs := rfl
@[simp] theorem resetBlock_answer : (resetBlock s).answer = s.answer := rfl
@[simp] theorem resetBlock_draws : (resetBlock s).draws = s.draws := rfl

end Sys2Proof.Laws
end

