-- ==== Sys2Proof/Laws/Ops.lean ====
section
/-! SUPPORT. What each shared operation can do, said once: the lemmas later proofs cite instead of unfolding. -/

namespace Sys2Proof.Laws

open Sys2Proof.Machine

/-! ### Errors -/

theorem errorCode_bounds (k : ErrorKind) : 1 ≤ (errorCode k).toNat ∧ (errorCode k).toNat ≤ 10 := by
  cases k <;> decide

@[simp] theorem errorCode_ne_zero (k : ErrorKind) : errorCode k ≠ 0#8 := by cases k <;> decide

/-- A detail that fits 64 bits is stored as it is. -/
theorem errorInfo_of_lt {info : Nat} (draw : Nat) (h : info < 2 ^ 64) :
    errorInfo draw info = BitVec.ofNat 64 info := if_pos h

/-- After taking an error the block is not ready. -/
@[simp] theorem takeError_not_ready (w : Word) (e : CmdError) (s : State) : ¬ Ready (takeError w e s) :=
  errorCode_ne_zero e.kind

/-! ### Running a command -/

/-- While an error is pending a command does nothing (60_exceptions.md R236). -/
theorem command_pending {s : State} (w : Word) (body : State → Ran) (h : ¬ Ready s) :
    command w s body = .next s := by
  simp only [command, commandState, ne_eq, h, not_false_eq_true, if_true]

/-- A command whose pseudocode ends. -/
theorem command_done {w : Word} {s t : State} {body : State → Ran} (h : Ready s) (hb : body s = .done t) :
    command w s body = .next t := by
  simp only [command, commandState, ne_eq, h, not_true, if_false, hb]

/-- A command whose pseudocode raises an error. -/
theorem command_raised {w : Word} {s t : State} {e : CmdError} {body : State → Ran} (h : Ready s)
    (hb : body s = .raised e t) : command w s body = .next (takeError w e t) := by
  simp only [command, commandState, ne_eq, h, not_true, if_false, hb]

/-- Everything a command can do (60_exceptions.md R233). -/
theorem command_cases {w : Word} {s t : State} {body : State → Ran} (h : command w s body = .next t) :
    (¬ Ready s ∧ t = s) ∨ (Ready s ∧ body s = .done t) ∨
      (Ready s ∧ ∃ (e : CmdError) (u : State), body s = .raised e u ∧ t = takeError w e u) := by
  by_cases hs : Ready s
  · refine Or.inr ?_
    cases hb : body s with
    | done u =>
      rw [command_done hs hb] at h
      cases h
      exact Or.inl ⟨hs, rfl⟩
    | raised e u =>
      rw [command_raised hs hb] at h
      cases h
      exact Or.inr ⟨hs, e, u, rfl, rfl⟩
  · rw [command_pending w body hs] at h
    cases h
    exact Or.inl ⟨hs, rfl⟩

/-- A command answers a next state. -/
theorem command_next (w : Word) (s : State) (body : State → Ran) : ∃ t : State, command w s body = .next t :=
  ⟨_, rfl⟩

/-- Every meaning answers a next state (60_exceptions.md R238). -/
theorem exec_next (i : Instr) (s : State) : ∃ t : State, exec i s = .next t := by
  cases i <;> exact ⟨_, rfl⟩

/-! ### Operands -/

/-- The bytes of `SRC`, when `SRC_LEN` fits the buffer (10_state.md R27). -/
theorem sourceBytes_ok {s : State} (h : s.srcLen.toNat ≤ s.cap.bufCap) :
    sourceBytes s = .ok (bufferBytes s .src) := if_neg (by omega)

theorem sourceBytes_error {s : State} (h : s.cap.bufCap < s.srcLen.toNat) :
    sourceBytes s = .error ⟨.invalidInput, s.srcLen.toNat⟩ := if_pos h

/-- The tokens of `TOK`, when `TOK_CNT` fits the table (10_state.md R32). -/
theorem tokenList_ok {s : State} (h : s.tokCnt.toNat ≤ s.cap.tokCap) :
    tokenList s = .ok ((List.range s.tokCnt.toNat).map (tokenAt s)) := if_neg (by omega)

theorem tokenList_error {s : State} (h : s.cap.tokCap < s.tokCnt.toNat) :
    tokenList s = .error ⟨.invalidInput, s.tokCnt.toNat⟩ := if_pos h

/-- A buffer selector names a buffer exactly below 3 (30_encoding.md R72). -/
theorem bufferOf_isSome (sel : Nat) : (bufferOf sel).isSome = decide (sel < 3) := by
  match sel with
  | 0 | 1 | 2 => rfl
  | n + 3 => exact (decide_eq_false (by omega)).symm

@[simp] theorem bitsMsb_length (n v : Nat) : (bitsMsb n v).length = n := by simp [bitsMsb]

@[simp] theorem toLe_length (n v : Nat) : (toLe n v).length = n := by simp [toLe]

@[simp] theorem tokenBytes_length (t : Token) : (tokenBytes t).length = 5 := rfl

/-! ### Commands that produce `DST` -/

/-- What a producer can do. -/
theorem produceDst_cases {s : State} {r : Except CmdError (List Byte)} {x : Ran} (h : produceDst s r = x) :
    (∃ out : List Byte, r = .ok out ∧ x = .done (putDst out s)) ∨
      ∃ e : CmdError, r = .error e ∧ x = .raised e (failDst s) := by
  cases r with
  | ok out => exact Or.inl ⟨out, rfl, h.symm⟩
  | error e => exact Or.inr ⟨e, rfl, h.symm⟩

/-- A byte sequence passes the check exactly when it fits the buffer (44_frame.md R180). -/
theorem checkBytes_ok {n : Nat} {xs ys : List Byte} : checkBytes n xs = .ok ys ↔ xs = ys ∧ xs.length ≤ n := by
  unfold checkBytes
  split
  · simp only [reduceCtorEq, false_iff, not_and]; omega
  · simp only [Except.ok.injEq, iff_self_and]; omega

/-- What a frame encoder can do (44_frame.md R199; 60_exceptions.md R234). -/
theorem frameEncode_cases (s : State) (enc : List Byte → Except CmdError Encoded) :
    (∃ r : Encoded, frameEncode s enc = .done (encodedState r.frame r.nsym r.crc s)) ∨
      ∃ e : CmdError, frameEncode s enc = .raised e (failDst s) := by
  unfold frameEncode finishEncode
  split
  · exact Or.inl ⟨_, rfl⟩
  · exact Or.inr ⟨_, rfl⟩

/-! ### The writer -/

/-- Appending the partial byte: the writer is full, or one byte is stored at `W_LEN` (40_bitstream.md R100). -/
theorem appendByte_cases (acc : BitVec 8) (s : State) :
    (s.cap.bufCap ≤ s.wLen.toNat ∧ appendByteToWriter acc s = .error ⟨.memoryError, s.wLen.toNat⟩) ∨
      (s.wLen.toNat < s.cap.bufCap ∧ appendByteToWriter acc s = .ok { s with
        bsw := Sparse.put s.bsw s.wLen.toNat acc, wLen := s.wLen + 1#64, wAcc := 0#8, wN := 0#3 }) := by
  by_cases h : s.cap.bufCap ≤ s.wLen.toNat
  · exact Or.inl ⟨h, if_pos h⟩
  · exact Or.inr ⟨Nat.not_le.mp h, if_neg h⟩

/-- What `write_bit` changes: the writer. -/
theorem writeBit_frame {s t : State} {b : Bool} (h : writeBit s b = .ok t) :
    t = { s with bsw := t.bsw, wLen := t.wLen, wAcc := t.wAcc, wN := t.wN } := by
  unfold writeBit at h
  split at h
  · rcases appendByte_cases (accWith s b) s with ⟨_, e⟩ | ⟨_, e⟩ <;> rw [e] at h <;> cases h
    rfl
  · cases h
    rfl

theorem writeBits_frame {s t : State} {bs : List Bool} (h : writeBits s bs = .ok t) :
    t = { s with bsw := t.bsw, wLen := t.wLen, wAcc := t.wAcc, wN := t.wN } := by
  induction bs generalizing s with
  | nil => cases h; rfl
  | cons b bs ih =>
    simp only [writeBits] at h
    split at h
    · rename_i u hu
      have h1 := ih h
      have h2 := writeBit_frame hu
      rw [h2] at h1
      exact h1
    · cases h

/-- What `flush` changes: the writer. -/
theorem flushWriter_frame {s t : State} (h : flushWriter s = .ok t) :
    t = { s with bsw := t.bsw, wLen := t.wLen, wAcc := t.wAcc, wN := t.wN } := by
  unfold flushWriter at h
  split at h
  · cases h; rfl
  · rcases appendByte_cases s.wAcc s with ⟨_, e⟩ | ⟨_, e⟩ <;> rw [e] at h <;> cases h
    rfl

/-! ### The reader -/

/-- `read_bit`: exhausted, or the bit under the cursor and the cursor one further (40_bitstream.md R105). -/
theorem readBit_cases (s : State) :
    (readerLen s ≤ s.rByte.toNat ∧ readBit s = .error ⟨.streamExhausted, s.rByte.toNat⟩) ∨
      (s.rByte.toNat < readerLen s ∧
        readBit s = .ok ((readerByte s s.rByte.toNat).getLsbD (7 - s.rBit.toNat), advanceCursor s)) := by
  by_cases h : readerLen s ≤ s.rByte.toNat
  · exact Or.inl ⟨h, if_pos h⟩
  · exact Or.inr ⟨Nat.not_le.mp h, if_neg h⟩

/-- Moving the cursor changes the cursor. -/
theorem advanceCursor_frame (s : State) :
    advanceCursor s = { s with rByte := (advanceCursor s).rByte, rBit := (advanceCursor s).rBit } := by
  unfold advanceCursor
  split <;> rfl

/-- `n` calls of `read_bit` change the cursor (40_bitstream.md R110). -/
theorem readBits_frame {n v w : Nat} {s t : State} (h : readBits n v s = .ok (w, t)) :
    t = { s with rByte := t.rByte, rBit := t.rBit } := by
  induction n generalizing v s with
  | zero => cases h; rfl
  | succ n ih =>
    simp only [readBits] at h
    rcases readBit_cases s with ⟨_, e⟩ | ⟨_, e⟩ <;> rw [e] at h
    · cases h
    · have h1 := ih h
      rw [advanceCursor_frame s] at h1
      exact h1

/-- An exhausted `BS.RBITS` leaves the cursor at the end of the buffer and everything else as it was
(60_exceptions.md R234). -/
theorem cursorAtEnd_eq (s : State) :
    cursorAtEnd s = { s with rByte := BitVec.ofNat 64 (readerLen s), rBit := 0#3 } := rfl

/-! ### The decoder -/

section
variable {c : Table CodeEntry}

theorem findSymbol_eq (cl cv : Nat) : findSymbol c cl cv =
    allSymbols.find? fun x => (c.get x).len.toNat == cl && (c.get x).bits == cv := by
  have hz : allSymbols.zip c.entries = allSymbols.map fun x => (x, c.get x) := by
    rw [table_entries, List.zip_map_right, List.zip_eq_zipWith, List.zipWith_self, List.map_map]
    rfl
  rw [findSymbol, hz, List.find?_map, Option.map_map]
  exact Option.map_id'

/-- A candidate goes on exactly when no symbol has it as its code (43_huffman.md R165). -/
theorem findSymbol_none {cl cv : Nat} :
    findSymbol c cl cv = none ↔ ∀ x : Byte, ¬ ((c.get x).len.toNat = cl ∧ (c.get x).bits = cv) := by
  simp [findSymbol_eq, List.find?_eq_none, mem_allSymbols]

/-- A symbol that is found has the candidate as its code (43_huffman.md R165). -/
theorem findSymbol_some {cl cv : Nat} {x : Byte} (h : findSymbol c cl cv = some x) :
    (c.get x).len.toNat = cl ∧ (c.get x).bits = cv := by
  rw [findSymbol_eq] at h
  simpa using List.find?_some h

/-- A bit that completes no code only extends the candidate. -/
theorem huffDecode_extend {b : Bool} {bs : List Bool} {left room cl cv : Nat} {bound : Bool}
    (hb : bound = true → left ≠ 0) (h : findSymbol c (cl + 1) (2 * cv + b.toNat) = none) :
    huffDecode c bound (b :: bs) left room cl cv =
      let r := huffDecode c bound bs left room (cl + 1) (2 * cv + b.toNat)
      ⟨r.out, r.used + 1, r.ending⟩ := by
  rw [huffDecode, if_neg fun k => hb k.1 k.2]
  simp only [h]

/-- A bit that completes the code of `x`: its output, when there is room. -/
theorem huffDecode_emit {b : Bool} {bs : List Bool} {left room cl cv : Nat} {bound : Bool} {x : Byte}
    (hb : bound = true → left ≠ 0) (h : findSymbol c (cl + 1) (2 * cv + b.toNat) = some x) :
    huffDecode c bound (b :: bs) left room cl cv =
      if room = 0 then ⟨[], 1, .full⟩
      else
        let r := huffDecode c bound bs (left - 1) (room - 1) 0 0
        ⟨x :: r.out, r.used + 1, r.ending⟩ := by
  rw [huffDecode, if_neg fun k => hb k.1 k.2]
  simp only [h]

end

/-! ### Trees -/

/-- A walk goes through the node its first part leads to (43_huffman.md R156). -/
theorem walkTree_cons {arena : List Node} {i : Nat} {n : Node} (b : Bool) (path : List Bool)
    (h : arena[i]? = some n) (hk : n.kind = .internal) :
    walkTree arena i (b :: path) = walkTree arena (if b then n.right.toNat else n.left.toNat) path := by
  simp only [walkTree, h, hk]

end Sys2Proof.Laws
end

