-- ==== Sys2Proof/Laws/PerInstr.lean ====
section
/-! SUPPORT. The statements made per instruction. -/

namespace Sys2Proof.Laws

/-- The three fields of a word made of an opcode, sixteen zero bits and an immediate. -/
theorem word_fields (op : BitVec 8) (imm : Nat) (h : imm < 256) :
    opField (op ++ 0#16 ++ BitVec.ofNat 8 imm) = op ∧ zField (op ++ 0#16 ++ BitVec.ofNat 8 imm) = 0#16 ∧
      (immField (op ++ 0#16 ++ BitVec.ofNat 8 imm)).toNat = imm := by
  refine ⟨?_, ?_, ?_⟩
  · refine BitVec.eq_of_getLsbD_eq fun i hi => ?_
    rw [opField, BitVec.getLsbD_extractLsb', BitVec.getLsbD_append, BitVec.getLsbD_append]
    simp [hi, show ¬ 24 + i < 8 by omega, show ¬ 24 + i - 8 < 16 by omega, show 24 + i - 8 - 16 = i by omega]
  · refine BitVec.eq_of_getLsbD_eq fun i hi => ?_
    rw [zField, BitVec.getLsbD_extractLsb', BitVec.getLsbD_append, BitVec.getLsbD_append]
    simp [hi]
  · have : immField (op ++ 0#16 ++ BitVec.ofNat 8 imm) = BitVec.ofNat 8 imm := by
      refine BitVec.eq_of_getLsbD_eq fun i hi => ?_
      rw [immField, BitVec.getLsbD_extractLsb', BitVec.getLsbD_append]
      simp [hi]
    rw [this, BitVec.toNat_ofNat]
    exact Nat.mod_eq_of_lt h

/-- The fields of the encoding of a well-formed command hold its opcode, zero, and its operand or variant
(30_encoding.md R70 to R72). -/
def EncodeFields.Statement (i : Instr) : Prop :=
  i.wf = true →
    opField (encode i) = opcode i ∧ zField (encode i) = 0#16 ∧ (immField (encode i)).toNat = immediate i

theorem EncodeFields.sysNop : EncodeFields.Statement .sysNop := fun _ => word_fields _ _ (by decide)

theorem EncodeFields.sysClrerr : EncodeFields.Statement .sysClrerr := fun _ => word_fields _ _ (by decide)

theorem EncodeFields.sysReset : EncodeFields.Statement .sysReset := fun _ => word_fields _ _ (by decide)

theorem EncodeFields.bufSwap : EncodeFields.Statement .bufSwap := fun _ => word_fields _ _ (by decide)

theorem EncodeFields.bsWinit : EncodeFields.Statement .bsWinit := fun _ => word_fields _ _ (by decide)

theorem EncodeFields.bsWbit (b : Nat) : EncodeFields.Statement (.bsWbit b) := fun h =>
  word_fields _ _ (Nat.lt_trans (of_decide_eq_true h) (by decide))

theorem EncodeFields.bsWbits (n : Nat) : EncodeFields.Statement (.bsWbits n) := fun h =>
  word_fields _ _ (Nat.lt_trans (of_decide_eq_true h) (by decide))

theorem EncodeFields.bsFlush : EncodeFields.Statement .bsFlush := fun _ => word_fields _ _ (by decide)

theorem EncodeFields.bsRinit (sel : Nat) : EncodeFields.Statement (.bsRinit sel) := fun h =>
  word_fields _ _ (Nat.lt_trans (of_decide_eq_true h) (by decide))

theorem EncodeFields.bsRbit : EncodeFields.Statement .bsRbit := fun _ => word_fields _ _ (by decide)

theorem EncodeFields.bsRbits (n : Nat) : EncodeFields.Statement (.bsRbits n) := fun h =>
  word_fields _ _ (Nat.lt_trans (of_decide_eq_true h) (by decide))

theorem EncodeFields.crcCalc (sel : Nat) : EncodeFields.Statement (.crcCalc sel) := fun h =>
  word_fields _ _ (Nat.lt_trans (of_decide_eq_true h) (by decide))

theorem EncodeFields.lzComp : EncodeFields.Statement .lzComp := fun _ => word_fields _ _ (by decide)

theorem EncodeFields.lzDecomp : EncodeFields.Statement .lzDecomp := fun _ => word_fields _ _ (by decide)

theorem EncodeFields.lzT2b : EncodeFields.Statement .lzT2b := fun _ => word_fields _ _ (by decide)

theorem EncodeFields.lzB2t : EncodeFields.Statement .lzB2t := fun _ => word_fields _ _ (by decide)

theorem EncodeFields.hufFreq : EncodeFields.Statement .hufFreq := fun _ => word_fields _ _ (by decide)

theorem EncodeFields.hufBuild : EncodeFields.Statement .hufBuild := fun _ => word_fields _ _ (by decide)

theorem EncodeFields.hufCodes : EncodeFields.Statement .hufCodes := fun _ => word_fields _ _ (by decide)

theorem EncodeFields.hufLens : EncodeFields.Statement .hufLens := fun _ => word_fields _ _ (by decide)

theorem EncodeFields.hufCanon : EncodeFields.Statement .hufCanon := fun _ => word_fields _ _ (by decide)

theorem EncodeFields.hufEnc : EncodeFields.Statement .hufEnc := fun _ => word_fields _ _ (by decide)

theorem EncodeFields.hufDec : EncodeFields.Statement .hufDec := fun _ => word_fields _ _ (by decide)

theorem EncodeFields.frmEncPlain : EncodeFields.Statement .frmEncPlain := fun _ => word_fields _ _ (by decide)

theorem EncodeFields.frmEncHyb : EncodeFields.Statement .frmEncHyb := fun _ => word_fields _ _ (by decide)

theorem EncodeFields.frmEncPar : EncodeFields.Statement .frmEncPar := fun _ => word_fields _ _ (by decide)

theorem EncodeFields.frmEncStor : EncodeFields.Statement .frmEncStor := fun _ => word_fields _ _ (by decide)

theorem EncodeFields.frmDec : EncodeFields.Statement .frmDec := fun _ => word_fields _ _ (by decide)

theorem EncodeFields.frmSniff : EncodeFields.Statement .frmSniff := fun _ => word_fields _ _ (by decide)

end Sys2Proof.Laws
end

