-- ==== Sys2Proof/Laws/Step.lean ====
section
/-! SUPPORT. What one step can do, said once. -/

namespace Sys2Proof.Laws

open Sys2Proof.Machine

/-- What executing a command word can do: the command it decodes to, or `IllegalCommand`. -/
theorem execute_cases (w : Word) (s : State) :
    (∃ i : Instr, decode w = .ok i ∧ execute w s = exec i s) ∨
      (∃ r : IllegalWord, decode w = .error r ∧ execute w s = illegalCommand w s) := by
  cases h : decode w with
  | ok i => exact Or.inl ⟨i, rfl, by simp only [execute, h]⟩
  | error r => exact Or.inr ⟨r, rfl, by simp only [execute, h]⟩

/-- Executing any word answers a next state. -/
theorem execute_next (w : Word) (s : State) : ∃ t : State, execute w s = .next t := by
  rcases execute_cases w s with ⟨i, _, h⟩ | ⟨_, _, h⟩
  · rw [h]; exact exec_next i s
  · rw [h]; exact command_next _ _ _

/-- A host write is a store or the execution of a command word (20_memory.md R56, R57). -/
theorem hostWrite_cases (space index : Nat) (v : HostValue) (s : State) :
    (∃ w : Word, commandWord space index v = some w ∧ hostWrite space index v s = execute w s) ∨
      (commandWord space index v = none ∧ hostWrite space index v s = .next (hostStore space index v s)) := by
  cases h : commandWord space index v with
  | some w => exact Or.inl ⟨w, rfl, by simp only [hostWrite, h]⟩
  | none => exact Or.inr ⟨rfl, by simp only [hostWrite, h]⟩

/-- Everything a step can be, by the next move (20_memory.md R58). -/
theorem step_cases {s t : State} (h : step s = .next t) :
    (s.inputs = [] ∧ t = s) ∨
      ∃ rest : List Input, ∃ u : State, u = takeInput rest s ∧
        ((∃ space index : Nat, s.inputs = .read space index :: rest ∧
            t = { u with answer := hostRead space index u }) ∨
          (∃ (space index : Nat) (v : HostValue), s.inputs = .write space index v :: rest ∧
            hostWrite space index v u = .next t) ∨
          (s.inputs = .hardReset :: rest ∧ t = resetBlock u)) := by
  unfold step stepInput at h
  split at h
  · rename_i hi
    cases h
    exact Or.inl ⟨hi, rfl⟩
  · rename_i m rest hi
    refine Or.inr ⟨rest, takeInput rest s, rfl, ?_⟩
    cases m with
    | read space index => exact Or.inl ⟨space, index, hi, by cases h; rfl⟩
    | write space index v => exact Or.inr (Or.inl ⟨space, index, v, hi, h⟩)
    | hardReset => exact Or.inr (Or.inr ⟨hi, by cases h; rfl⟩)

end Sys2Proof.Laws
end

