-- ==== Sys2Proof/Tests/Slice0.lean ====
section
/-! SUPPORT. The model's own tests. Expected results are the vectors of 95_test_vectors.md (named `V-…`) and the
encodings of 30_encoding.md R71, R72; then the witnesses of the hypotheses of the statements. -/

set_option Elab.async false

namespace Sys2Proof.Tests

open Sys2Proof.Machine Sys2Proof.Claims

/-! ### Helpers -/

/-- What `f` reads from the state after one command. -/
def after {α : Type} (f : State → α) (i : Instr) (s : State) : Option α :=
  match exec i s with
  | .next t => some (f t)
  | .fault _ => none
  | .refused _ => none

/-- What `f` reads from the state after one step. -/
def afterStep {α : Type} (f : State → α) (s : State) : Option α :=
  match step s with
  | .next t => some (f t)
  | .fault _ => none
  | .refused _ => none

/-- The error registers that a vector names, and `DST_LEN`. -/
def errorOf (s : State) : BitVec 8 × BitVec 64 × BitVec 64 := (s.err, s.errInfo, s.dstLen)

/-- `s` with the bytes loaded in `SRC`. -/
def load (bytes : List Byte) (s : State) : State :=
  { s with src := Sparse.ofList bytes, srcLen := BitVec.ofNat 64 bytes.length }

/-- `s` with the tokens loaded in `TOK`. -/
def loadTokens (toks : List Token) (s : State) : State :=
  { s with tok := Sparse.ofList toks, tokCnt := BitVec.ofNat 64 toks.length }

/-- A reset block with room for 8 bytes and 4 tokens. -/
def tiny : State := State.resetWith ⟨8, 4⟩

/-- A reset block with room for a frame. -/
def roomy : State := State.resetWith ⟨600, 8⟩

/-- "aab". -/
def aab : List Byte := [0x61#8, 0x61#8, 0x62#8]

/-- A table with two entries set. -/
def twoCodes : Table CodeEntry := ((Table.fill ⟨0#8, 0⟩).put 0x61#8 ⟨1#8, 0⟩).put 0x62#8 ⟨1#8, 1⟩

/-- The lengths of `twoCodes`. -/
def twoLengths : Table (BitVec 8) := ((Table.fill 0#8).put 0x61#8 1#8).put 0x62#8 1#8

/-! ### Well-formedness refuses each operand that has no encoding -/

theorem test_wf_refuses : Instr.wf (.bsWbit 2) = false ∧ Instr.wf (.bsWbits 128) = false ∧
    Instr.wf (.bsRbits 128) = false ∧ Instr.wf (.bsRinit 4) = false ∧ Instr.wf (.crcCalc 4) = false := by decide

theorem test_wf_admits : Instr.wf (.bsWbit 1) = true ∧ Instr.wf (.bsWbits 127) = true ∧
    Instr.wf (.bsRbits 127) = true ∧ Instr.wf (.bsRinit 3) = true ∧ Instr.wf (.crcCalc 3) = true := by decide

/-! ### Decoding: a word of every row of 30_encoding.md R71, and the illegal words of R73 -/

theorem test_decode_system :
    decode 0b00000000000000000000000000000000#32 = .ok .sysNop ∧
    decode 0b00000001000000000000000000000000#32 = .ok .sysClrerr ∧
    decode 0b00000010000000000000000000000000#32 = .ok .sysReset ∧
    decode 0b00000011000000000000000000000000#32 = .ok .bufSwap := by decide

theorem test_decode_bitstream :
    decode 0b00010000000000000000000000000000#32 = .ok .bsWinit ∧
    decode 0b00010001000000000000000000000001#32 = .ok (.bsWbit 1) ∧
    decode 0b00010010000000000000000001000001#32 = .ok (.bsWbits 65) ∧
    decode 0b00010011000000000000000000000000#32 = .ok .bsFlush ∧
    decode 0b00010100000000000000000000000010#32 = .ok (.bsRinit 2) ∧
    decode 0b00010101000000000000000000000000#32 = .ok .bsRbit ∧
    decode 0b00010110000000000000000000001001#32 = .ok (.bsRbits 9) := by decide

theorem test_decode_checksum_lz :
    decode 0b00100000000000000000000000000001#32 = .ok (.crcCalc 1) ∧
    decode 0b00110000000000000000000000000000#32 = .ok .lzComp ∧
    decode 0b00110001000000000000000000000000#32 = .ok .lzDecomp ∧
    decode 0b00110010000000000000000000000000#32 = .ok .lzT2b ∧
    decode 0b00110011000000000000000000000000#32 = .ok .lzB2t := by decide

theorem test_decode_huffman :
    decode 0b01000000000000000000000000000000#32 = .ok .hufFreq ∧
    decode 0b01000001000000000000000000000000#32 = .ok .hufBuild ∧
    decode 0b01000010000000000000000000000000#32 = .ok .hufCodes ∧
    decode 0b01000011000000000000000000000000#32 = .ok .hufLens ∧
    decode 0b01000100000000000000000000000000#32 = .ok .hufCanon ∧
    decode 0b01000101000000000000000000000000#32 = .ok .hufEnc ∧
    decode 0b01000110000000000000000000000000#32 = .ok .hufDec := by decide

theorem test_decode_frame :
    decode 0b01010000000000000000000000000000#32 = .ok .frmEncPlain ∧
    decode 0b01010000000000000000000000000001#32 = .ok .frmEncHyb ∧
    decode 0b01010000000000000000000000000010#32 = .ok .frmEncPar ∧
    decode 0b01010000000000000000000000000011#32 = .ok .frmEncStor ∧
    decode 0b01010001000000000000000000000000#32 = .ok .frmDec ∧
    decode 0b01010010000000000000000000000000#32 = .ok .frmSniff := by decide

theorem test_decode_illegal : decode 0x60000000#32 = .error .unknownOpcode ∧
    decode 0x04000000#32 = .error .unknownOpcode ∧ decode 0x47000000#32 = .error .unknownOpcode ∧
    decode 0x53000000#32 = .error .unknownOpcode ∧ decode 0x10000100#32 = .error .nonzeroZ ∧
    decode 0x00800000#32 = .error .nonzeroZ ∧ decode 0x11000002#32 = .error .nonzeroImm ∧
    decode 0x12000080#32 = .error .nonzeroImm ∧ decode 0x20000004#32 = .error .nonzeroImm ∧
    decode 0x50000004#32 = .error .nonzeroImm ∧ decode 0x51000001#32 = .error .nonzeroImm := by decide

theorem test_decodeTableWord : decodeTableWord 32 0x50000003 = some .frmEncStor ∧
    decodeTableWord 32 0x60000000 = none := by decide

/-! ### Stepping -/

/-- The fetched word runs as the first command after reset (V-S5, V-S2). -/
theorem test_step_runs_word : afterStep errorOf (State.reset.withFetchWord 32 0x14000003) = some (8#8, 3#64, 0#64) ∧
    afterStep (fun s => (s.err, s.errInfo, s.errCmd)) (State.reset.withFetchWord 32 0x60000000) =
      some (10#8, 0#64, 0x60000000#32) := by decide +kernel

/-- V-S1: the registers read after reset. -/
theorem test_reset_registers : hostRead 0 0x01 State.reset = .word 8#64 ∧ hostRead 0 0x05 State.reset = .word 1#64 ∧
    hostRead 0 0x18 State.reset = .word 0x3FF#64 ∧ hostRead 0 0x02 State.reset = .word 0#64 := by decide +kernel

/-- V-S11: the reserved bits of `CTL` are ignored. -/
theorem test_write_ctl : afterStep (hostRead 0 0x05)
    { State.reset with inputs := [.write 0 5 (.word 0xFFFFFFFFFFFFFFFE#64)] } = some (.word 0#64) := by
  decide +kernel

/-- A host read answers the byte; below the length it is the loaded one. -/
theorem test_read_src : afterStep State.answer { load aab tiny with inputs := [.read 1 2] } =
    some (.word 0x62#64) := by decide +kernel

/-- The hardware reset restores `CTL` and keeps the capacities. -/
theorem test_hard_reset : afterStep (fun s => (s.ctl, s.srcLen, s.cap))
    { load aab tiny with ctl := 0#1, inputs := [.hardReset] } = some (1#1, 0#64, ⟨8, 4⟩) := by decide +kernel

/-! ### System commands -/

theorem test_sysNop : after (fun s => (s.err, s.arg0)) .sysNop { tiny with arg0 := 7#64 } = some (0#8, 7#64) := by
  decide +kernel

/-- V-S8. -/
theorem test_sysClrerr : after (fun s => (s.err, s.errInfo, s.errCmd)) .sysClrerr
    { tiny with err := 10#8, errInfo := 5#64, errCmd := 0x60000000#32 } = some (0#8, 0#64, 0#32) := by decide +kernel

/-- V-S10. -/
theorem test_sysReset : after (fun s => (s.err, s.srcLen, s.root, s.ctl)) .sysReset
    { load aab tiny with err := 10#8, root := 3#10, ctl := 0#1 } = some (0#8, 0#64, 0x3FF#10, 1#1) := by
  decide +kernel

/-- V-S9. -/
theorem test_bufSwap : after (fun s => (bufferBytes s .src, s.srcLen, s.dstLen)) .bufSwap
    { State.resetWith ⟨16, 1⟩ with dst := Sparse.ofList [0#8, 3#8, 0#8, 6#8, 0x64#8], dstLen := 5#64, srcLen := 10#64 } =
      some ([0#8, 3#8, 0#8, 6#8, 0x64#8], 5#64, 10#64) := by decide +kernel

/-! ### Bit stream -/

theorem test_bsWinit : after (fun s => (s.wLen, s.wAcc, s.wN)) .bsWinit
    { tiny with wLen := 2#64, wAcc := 0xF0#8, wN := 4#3 } = some (0#64, 0#8, 0#3) := by decide +kernel

/-- V-B1; V-B15. -/
theorem test_bsWbit : after (fun s => (s.wAcc, s.wN, s.wLen, wpend s)) (.bsWbit 1) tiny =
    some (0x80#8, 1#3, 0#64, true) := by decide +kernel

theorem test_bsWbit_full : after (fun s => (s.err, s.errInfo, s.wLen, s.wN)) (.bsWbit 0)
    { tiny with wLen := 8#64, wN := 7#3 } = some (9#8, 8#64, 8#64, 7#3) := by decide +kernel

/-- V-B3. -/
theorem test_bsWbits : after (fun s => (s.bsw, s.wLen, s.wAcc, s.wN)) (.bsWbits 9)
    { tiny with wAcc := 0xA0#8, wN := 3#3, arg0 := 0x1FF#64 } = some ([(0, 0xBF#8)], 1#64, 0xF0#8, 4#3) := by
  decide +kernel

/-- V-B14. -/
theorem test_bsWbits_range : after errorOf (.bsWbits 65) tiny = some (8#8, 65#64, 0#64) := by decide +kernel

/-- V-B4. -/
theorem test_bsFlush : after (fun s => (s.bsw, s.wLen, s.wAcc, s.wN)) .bsFlush
    { tiny with bsw := [(0, 0xBF#8)], wLen := 1#64, wAcc := 0xF0#8, wN := 4#3 } =
      some ([(0, 0xBF#8), (1, 0xF0#8)], 2#64, 0#8, 0#3) := by decide +kernel

/-- The reader of V-B6 to V-B10 over `BF F0`. -/
def reading (byte : BitVec 64) (bit : BitVec 3) : State :=
  { tiny with bsw := [(0, 0xBF#8), (1, 0xF0#8)], wLen := 2#64, rSel := 2#2, rByte := byte, rBit := bit, res := 3#64 }

theorem test_bsRinit : after (fun s => (s.rSel, s.rByte, s.rBit)) (.bsRinit 2) (reading 1#64 4#3) =
    some (2#2, 0#64, 0#3) := by decide +kernel

/-- The first bit of V-B6; V-B9. -/
theorem test_bsRbit : after (fun s => (s.res, s.rByte, s.rBit)) .bsRbit (reading 0#64 0#3) =
    some (1#64, 0#64, 1#3) := by decide +kernel

theorem test_bsRbit_exhausted : after (fun s => (s.err, s.errInfo, s.errCmd, s.res)) .bsRbit (reading 2#64 0#3) =
    some (1#8, 2#64, 0x15000000#32, 3#64) := by decide +kernel

/-- V-B7; V-B10, and a cursor beyond the buffer (60_exceptions.md R234). -/
theorem test_bsRbits : after (fun s => (s.res, s.rByte, s.rBit)) (.bsRbits 9) (reading 0#64 3#3) =
    some (511#64, 1#64, 4#3) := by decide +kernel

theorem test_bsRbits_exhausted : after (fun s => (s.err, s.errInfo, s.rByte, s.rBit, s.res)) (.bsRbits 8)
    (reading 1#64 4#3) = some (1#8, 2#64, 2#64, 0#3, 3#64) ∧
    after (fun s => (s.err, s.rByte, s.rBit, s.res)) (.bsRbits 1) (reading 5#64 3#3) = some (1#8, 2#64, 0#3, 3#64) := by
  decide +kernel

/-! ### CRC-32 -/

/-- V-C11. -/
theorem test_crcCalc : after (fun s => (s.crcr, s.res)) (.crcCalc 0) (load [0#8, 0#8] tiny) =
    some (0x41D912FF#32, 0x0000000041D912FF#64) := by decide +kernel

/-- V-C1, V-C2, V-C8, and entries of the table of section 3. -/
theorem test_crc32 : crc32 [] = 0#32 ∧ crc32 [0x61#8] = 0xE8B7BE43#32 ∧
    crc32 [0x69#8, 0xCF#8, 0x68#8] = 0xB74C0B56#32 ∧ crcTable 7#8 = 0x9E6495A3#32 ∧ crcTable 255#8 = 0x2D02EF8D#32 := by
  decide +kernel

/-! ### LZ77 -/

/-- V-L3. -/
theorem test_lzComp : after (fun s => (s.tokCnt, s.tok)) .lzComp
    { load [0x61#8, 0x62#8, 0x63#8, 0x61#8, 0x62#8, 0x63#8, 0x61#8, 0x62#8, 0x63#8, 0x64#8] roomy with
      window := 16#16, lookahead := 16#16 } =
      some (4#64, [(0, ⟨0#16, 0#16, 0x61#8⟩), (1, ⟨0#16, 0#16, 0x62#8⟩), (2, ⟨0#16, 0#16, 0x63#8⟩),
        (3, ⟨3#16, 6#16, 0x64#8⟩)]) := by decide +kernel

/-- V-L11: of two equal matches the nearest. -/
theorem test_lzCompress_nearest : lzCompress [0x61#8, 0x62#8, 0x63#8, 0x61#8, 0x62#8, 0x64#8, 0x61#8, 0x62#8] 16 16 =
    [⟨0#16, 0#16, 0x61#8⟩, ⟨0#16, 0#16, 0x62#8⟩, ⟨0#16, 0#16, 0x63#8⟩, ⟨3#16, 2#16, 0x64#8⟩, ⟨3#16, 2#16, 0#8⟩] := by
  decide +kernel

/-- V-L1 in bounded mode; V-L22. -/
theorem test_lzDecomp : after (fun s => bufferBytes s .dst) .lzDecomp
    { loadTokens [⟨0#16, 0#16, 0x61#8⟩, ⟨1#16, 3#16, 0#8⟩] tiny with origLen := 4#64 } =
      some [0x61#8, 0x61#8, 0x61#8, 0x61#8] := by decide +kernel

theorem test_lzDecomp_corrupt : after errorOf .lzDecomp
    (loadTokens [⟨0#16, 0#16, 0x61#8⟩, ⟨2#16, 1#16, 0x62#8⟩] tiny) = some (2#8, 1#64, 0#64) := by decide +kernel

/-- V-L27. -/
theorem test_lzT2b : after (fun s => bufferBytes s .dst) .lzT2b (loadTokens [⟨3#16, 6#16, 0x64#8⟩] tiny) =
    some [0#8, 3#8, 0#8, 6#8, 0x64#8] := by decide +kernel

/-- V-L27 read back; V-L26. -/
theorem test_lzB2t : after (fun s => (s.tokCnt, s.tok)) .lzB2t (load [0#8, 3#8, 0#8, 6#8, 0x64#8] tiny) =
    some (1#64, [(0, ⟨3#16, 6#16, 0x64#8⟩)]) := by decide +kernel

theorem test_lzB2t_trailing : after (fun s => (s.err, s.errInfo, s.tokCnt)) .lzB2t
    (load [0#8, 0#8, 0#8, 0#8, 0#8, 0#8, 0#8] tiny) = some (2#8, 1#64, 0#64) := by decide +kernel

/-! ### Huffman -/

/-- V-H4, `FREQ`. -/
theorem test_hufFreq : after (fun s => (s.freq.get 0x61#8, s.freq.get 0x62#8, s.freq.get 0#8)) .hufFreq (load aab tiny) =
    some (2#64, 1#64, 0#64) := by decide +kernel

/-- V-H4, the tree. -/
theorem test_hufBuild : after (fun s => (s.nodeCnt, s.root, nodeAt s 2)) .hufBuild
    { tiny with freq := countFreq aab } =
      some (3#10, 2#10, ⟨.internal, 0#8, 3#64, 0x61#8, 1#10, 0#10⟩) := by decide +kernel

/-- V-H8: a total of `2^64`. -/
theorem test_hufBuild_total : after errorOf .hufBuild
    { tiny with freq := ((Table.fill 0#64).put 0#8 (0x8000000000000000#64)).put 1#8 0x8000000000000000#64 } =
      some (8#8, 0#64, 0#64) := by decide +kernel

/-- V-H4, tree-order codes; V-H8, no tree. -/
theorem test_hufCodes : after (fun s => (s.tcode.get 0x61#8, s.tcode.get 0x62#8)) .hufCodes
    { tiny with node := Sparse.ofList (buildTree (countFreq aab)).1, nodeCnt := 3#10, root := 2#10 } =
      some (⟨1#8, 1⟩, ⟨1#8, 0⟩) := by decide +kernel

theorem test_hufCodes_no_tree : after errorOf .hufCodes tiny = some (7#8, 0#64, 0#64) := by decide +kernel

theorem test_hufLens : after (fun s => (s.len.get 0x62#8, s.len.get 0#8)) .hufLens { tiny with tcode := twoCodes } =
    some (1#8, 0#8) := by decide +kernel

/-- V-H7, rows 1 and 6. -/
theorem test_hufCanon : after (fun s => (s.code.get 0#8, s.code.get 1#8)) .hufCanon
    { tiny with len := ((Table.fill 0#8).put 0#8 1#8).put 1#8 2#8 } = some (⟨1#8, 0⟩, ⟨2#8, 2⟩) := by decide +kernel

theorem test_hufCanon_oversubscribed : after errorOf .hufCanon
    { tiny with len := (((Table.fill 0#8).put 0#8 1#8).put 1#8 1#8).put 2#8 2#8 } = some (4#8, 2#64, 0#64) := by
  decide +kernel

/-- V-H4: `a "0"`, `b "1"` on "aab"; V-H8: no code. -/
theorem test_hufEnc : after (fun s => (s.wAcc, s.wN, s.wLen)) .hufEnc { load aab tiny with code := twoCodes } =
    some (0x20#8, 3#3, 0#64) := by decide +kernel

theorem test_hufEnc_no_code : after (fun s => (s.err, s.errInfo, s.wN)) .hufEnc
    { load [0x61#8, 0x62#8, 0x7A#8] tiny with code := twoCodes } = some (7#8, 2#64, 0#3) := by decide +kernel

/-- V-H9: bounded with `SYMCNT` 1, then 2. -/
theorem test_hufDec : after (fun s => (bufferBytes s .dst, s.rByte, s.rBit)) .hufDec
    { load [0x1F#8] tiny with code := (Table.fill ⟨0#8, 0⟩).put 5#8 ⟨3#8, 0⟩, symCnt := 1#64 } =
      some ([5#8], 0#64, 3#3) := by decide +kernel

theorem test_hufDec_exhausted : after (fun s => (errorOf s, s.rByte)) .hufDec
    { load [0x1F#8] tiny with code := (Table.fill ⟨0#8, 0⟩).put 5#8 ⟨3#8, 0⟩, symCnt := 2#64 } =
      some ((1#8, 1#64, 0#64), 1#64) := by decide +kernel

/-! ### Frames -/

/-- V-F10: length, `LEN[0x61]`, the CRC field and the payload. -/
theorem test_frmEncPlain : after (fun s => (s.dstLen, (bufferBytes s .dst)[101]?, (bufferBytes s .dst).drop 260))
    .frmEncPlain (load [0x61#8] roomy) =
      some (265#64, some 1#8, [0x8D#8, 0xEF#8, 0x02#8, 0xD2#8, 0#8]) := by decide +kernel

/-- V-F5: the registers, the magic, the CRC field and the payload. -/
theorem test_frmEncHyb : after (fun s => ((s.dstLen, s.symCnt, s.origLen, s.crcr),
      (bufferBytes s .dst).take 9, (bufferBytes s .dst).drop 264)) .frmEncHyb
    { load [0x61#8, 0x62#8, 0x63#8, 0x61#8, 0x62#8, 0x63#8, 0x61#8, 0x62#8, 0x63#8, 0x64#8] roomy with
      window := 16#16, lookahead := 16#16 } =
      some ((273#64, 20#64, 10#64, 0x3411AA8E#32),
        [0x48#8, 0x55#8, 0x46#8, 0x5F#8, 0x4C#8, 0x5A#8, 0x37#8, 0x37#8, 1#8],
        [0x8E#8, 0xAA#8, 0x11#8, 0x34#8, 0x0E#8, 0x0F#8, 0x08#8, 0xC6#8, 0xD0#8]) := by decide +kernel

/-- V-F7: the registers and the container header. -/
theorem test_frmEncPar : after (fun s => ((s.dstLen, s.symCnt, s.origLen, s.crcr), (bufferBytes s .dst).take 25))
    .frmEncPar { load [0x61#8, 0x61#8, 0x61#8, 0x61#8, 0x62#8, 0x62#8, 0x62#8, 0x62#8] roomy with chunkSz := 4#64 } =
      some ((561#64, 8#64, 8#64, 0xD202EF8D#32), [0x48#8, 0x55#8, 0x46#8, 0x5F#8, 0x50#8, 0x41#8, 0x52#8,
        2#8, 0#8, 0#8, 0#8, 0#8, 0#8, 0#8, 0#8, 9#8, 1#8, 0#8, 0#8, 0#8, 0#8, 0#8, 0#8, 9#8, 1#8]) := by
  decide +kernel

/-- V-F8; V-F9. -/
theorem test_frmEncStor : after (fun s => (bufferBytes s .dst, s.symCnt, s.origLen)) .frmEncStor
    (load [0x68#8, 0x69#8] roomy) = some ([0x53#8, 0x54#8, 0x4F#8, 0x52#8, 2#8, 0#8, 0#8, 0#8, 0#8, 0#8, 0#8, 0#8,
      0x68#8, 0x69#8], 0#64, 2#64) := by decide +kernel

theorem test_frmEncStor_empty : after (fun s => bufferBytes s .dst) .frmEncStor roomy =
    some [0x48#8, 0x55#8, 0x46#8, 0x31#8, 0#8, 0#8, 0#8, 0#8, 0#8, 0#8, 0#8, 0#8] := by decide +kernel

/-- The plain frame of V-F10, written out from 30_encoding.md R82. -/
def frameOfA : List Byte := [0x48#8, 0x55#8, 0x46#8, 0x32#8] ++ List.replicate 97 0#8 ++ [1#8] ++
  List.replicate 158 0#8 ++ [0x8D#8, 0xEF#8, 0x02#8, 0xD2#8, 0#8]

/-- V-F10, bounded decode; V-F22. -/
theorem test_frmDec : after (fun s => (bufferBytes s .dst, s.res, s.crcr)) .frmDec
    { load frameOfA roomy with symCnt := 1#64 } = some ([0x61#8], 2#64, 0xD202EF8D#32) := by decide +kernel

theorem test_frmDec_short : after (fun s => (errorOf s, s.res)) .frmDec
    (load ([0x48#8, 0x55#8, 0x46#8, 0x32#8] ++ List.replicate 100 0#8) roomy) =
      some ((4#8, 100#64, 0#64), 2#64) := by decide +kernel

/-- V-F39. -/
theorem test_frmSniff : after (fun s => (s.err, s.res)) .frmSniff
    (load [0x48#8, 0x55#8, 0x46#8, 0x5F#8, 0x50#8, 0x41#8, 0x52#8] tiny) = some (0#8, 4#64) := by decide +kernel

/-! ### The hypotheses of the statements are met

One theorem per statement with hypotheses: a concrete state and operands that meet them, for each clause, at the
boundary of its range. -/

/-- `tiny` has valid capacities and an empty writer. -/
theorem test_tiny_meets : Ready tiny ∧ tiny.cap.Valid ∧ WriterInv tiny :=
  ⟨rfl, by decide +kernel, ⟨by decide +kernel, by decide +kernel⟩⟩

/-- A writer with 7 bytes and 7 bits: the next bit fills it. -/
def almostFull : State := { tiny with wLen := 7#64, wAcc := 0xFE#8, wN := 7#3 }

/-- A writer with 8 bytes and 7 bits: the next bit does not fit. -/
def full : State := { tiny with wLen := 8#64, wAcc := 0xFE#8, wN := 7#3 }

theorem test_almostFull_meets : Ready almostFull ∧ almostFull.cap.Valid ∧ WriterInv almostFull :=
  ⟨rfl, by decide +kernel, ⟨by decide +kernel, by decide +kernel⟩⟩

theorem test_full_meets : Ready full ∧ full.cap.Valid ∧ WriterInv full :=
  ⟨rfl, by decide +kernel, ⟨by decide +kernel, by decide +kernel⟩⟩

theorem test_witness_DecodeAndEncodeAgree : Instr.wf (.bsRbits 127) = true ∧ Instr.wf (.crcCalc 3) = true ∧
    decode 0x1600007F#32 = .ok (.bsRbits 127) := by decide

theorem test_witness_IllegalWordsRaiseIllegalCommand : Ready tiny ∧ IllegalBits 0x04000000#32 ∧
    IllegalBits 0x00000100#32 ∧ IllegalBits 0x00800000#32 ∧ IllegalBits 0x12000080#32 ∧ IllegalBits 0x50000004#32 ∧
    ¬ IllegalBits 0x1200007F#32 ∧ ¬ IllegalBits 0x50000003#32 := by
  refine ⟨rfl, ?_⟩
  unfold IllegalBits
  decide

theorem test_witness_StepRunsDecodedCommand :
    (State.reset.withFetchWord 32 0x14000002).inputs = .write 0 0 (.word 0x14000002#64) :: [] ∧
      decode ((0x14000002#64).setWidth 32) = .ok (.bsRinit 2) := by decide +kernel

theorem test_witness_StepOfOtherMoves : tiny.inputs = [] ∧
    (load aab { tiny with inputs := [.read 9 511] }).inputs = .read 9 511 :: [] ∧
    (load aab { tiny with inputs := [.write 0 1 (.word 1#64)] }).inputs = .write 0 1 (.word 1#64) :: [] ∧
    ¬ ((0 : Nat) = 0 ∧ (1 : Nat) = 0) ∧ { tiny with inputs := [.hardReset] }.inputs = .hardReset :: [] := by
  decide +kernel

theorem test_witness_RegisterReads : tiny.rSel ≠ 3#2 ∧ (reading 2#64 0#3).rSel ≠ 3#2 := by decide +kernel

theorem test_witness_RegisterWrites : (5 : Nat) ≠ 0 ∧ ((5, 1) : Nat × Nat) ∈ [((0x05, 1) : Nat × Nat), (0x06, 64)] ∧
    (24 : Nat) ∉ [0x05, 0x06, 0x08, 0x09, 0x0A, 0x0B, 0x0C, 0x0D, 0x16] := by decide

theorem test_witness_SpaceWrites : (7 : Nat) < tiny.cap.bufCap ∧ (255 : Nat) < 256 ∧ (3 : Nat) < tiny.cap.tokCap ∧
    ((2 : Nat) ≠ 0 ∧ (2 : Nat) ∉ [1, 4, 5, 9]) ∧
    [tiny.cap.bufCap, 0, 0, 256, 256, 0, 0, 0, tiny.cap.tokCap].getD (1 - 1) 0 ≤ 8 ∧
    [tiny.cap.bufCap, 0, 0, 256, 256, 0, 0, 0, tiny.cap.tokCap].getD (9 - 1) 0 ≤ 4 ∧ (9 : Nat) < 10 ∧
    [tiny.cap.bufCap, tiny.cap.bufCap, tiny.cap.bufCap, 256, 256, 256, 256, 511, tiny.cap.tokCap].getD (8 - 1) 0 ≤ 511 ∧
    (2 < (load aab tiny).srcLen.toNat ∧ Sparse.get? (α := Byte) (load aab tiny).src 2 = some 0x62#8) ∧
    (1 < (reading 0#64 0#3).wLen.toNat ∧ Sparse.get? (α := Byte) (reading 0#64 0#3).bsw 1 = some 0xF0#8) ∧
    (let s := putDst aab tiny
     2 < s.dstLen.toNat ∧ Sparse.get? (α := Byte) s.dst 2 = some 0x62#8) ∧
    (let s := { tiny with node := Sparse.ofList [leafNode 5#8 1#64], nodeCnt := 1#10 }
     0 < s.nodeCnt.toNat ∧ Sparse.get? s.node 0 = some (leafNode 5#8 1#64)) ∧
    (let s := loadTokens [⟨3#16, 6#16, 0x64#8⟩] tiny
     0 < s.cap.tokCap ∧ 0 < s.tokCnt.toNat ∧ Sparse.get? s.tok 0 = some ⟨3#16, 6#16, 0x64#8⟩) := by
  decide +kernel

theorem test_witness_RefusedWhileErrorPending : ¬ Ready { tiny with err := 10#8 } ∧
    (0x60000000#32 : Word) ≠ 0x01000000#32 ∧ (0x60000000#32 : Word) ≠ 0x02000000#32 := by decide +kernel

theorem test_witness_ErrorRecordsTheCommandWord : Ready tiny ∧
    (∃ t : State, exec .hufCodes tiny = .next t ∧ ¬ Ready t) ∧ ∃ t : State, exec .hufLens tiny = .next t ∧ Ready t :=
  ⟨rfl, ⟨_, rfl, by decide +kernel⟩, ⟨_, rfl, by decide +kernel⟩⟩

theorem test_witness_SourceLengthBeyondCapacityRaises : Ready { tiny with srcLen := 9#64 } ∧
    { tiny with srcLen := 9#64 }.cap.bufCap < { tiny with srcLen := 9#64 }.srcLen.toNat ∧
    { tiny with srcLen := 9#64 }.rSel = 0#2 := by decide +kernel

theorem test_witness_OperandOutOfRangeRaises : Ready tiny ∧ (64 < 65 ∧ 65 < 128) ∧ (64 < 127 ∧ 127 < 128) ∧
    readerBlocked tiny = false := by decide +kernel

theorem test_witness_BufSwapExchangesBuffers :
    (let s := { tiny with srcLen := 8#64, dstLen := 8#64 }
     Ready s ∧ s.srcLen.toNat ≤ s.cap.bufCap ∧ s.dstLen.toNat ≤ s.cap.bufCap) ∧
    (let s := { tiny with srcLen := 9#64 }
     Ready s ∧ s.cap.bufCap < s.srcLen.toNat) := by decide +kernel

theorem test_witness_WriterAndReaderConstruction : Ready tiny ∧ (2 : Nat) < 3 := by decide +kernel

theorem test_witness_WriteAppendsBits : (1 < 2 ∧ RoomFor 1 almostFull) ∧ (64 ≤ 64 ∧ RoomFor 64 tiny) ∧ RoomFor 0 full := by
  decide +kernel

theorem test_witness_FlushPadsThePartialByte : tiny.wN = 0#3 ∧ almostFull.wN ≠ 0#3 ∧
    almostFull.wLen.toNat < almostFull.cap.bufCap := by decide +kernel

theorem test_witness_WriterFullLeavesTheWriter : ¬ RoomFor 1 full ∧ ¬ RoomFor 64 full ∧ ¬ RoomFor 9 almostFull ∧
    full.wN ≠ 0#3 ∧ full.wLen.toNat = full.cap.bufCap := by decide +kernel

theorem test_witness_ReadTakesTheNextBits : Ready (reading 1#64 7#3) ∧ readerBlocked (reading 1#64 7#3) = false ∧
    (reading 1#64 7#3).rByte.toNat < readerLen (reading 1#64 7#3) ∧
    8 * (reading 1#64 7#3).rByte.toNat + (reading 1#64 7#3).rBit.toNat + 1 ≤ 8 * readerLen (reading 1#64 7#3) := by
  decide +kernel

theorem test_witness_ReaderExhaustion : Ready (reading 2#64 0#3) ∧ readerBlocked (reading 2#64 0#3) = false ∧
    readerLen (reading 2#64 0#3) ≤ (reading 2#64 0#3).rByte.toNat ∧
    (∀ s ∈ [reading 1#64 7#3, reading 2#64 0#3, reading 2#64 5#3, reading 9#64 0#3],
      Ready s ∧ readerBlocked s = false ∧ 8 * readerLen s < 8 * s.rByte.toNat + s.rBit.toNat + 2) ∧
    8 * readerLen (reading 2#64 0#3) < 8 * (reading 2#64 0#3).rByte.toNat + (reading 2#64 0#3).rBit.toNat + 1 := by
  decide +kernel

theorem test_witness_BitStreamRoundTrip : Ready tiny ∧ tiny.cap.Valid ∧
    (List.replicate 64 true).length ≤ 8 * tiny.cap.bufCap := by decide +kernel

theorem test_witness_CrcCalcResult : Ready { tiny with srcLen := 8#64 } ∧ bufferOf 0 = some .src ∧
    { tiny with srcLen := 8#64 }.srcLen.toNat ≤ { tiny with srcLen := 8#64 }.cap.bufCap ∧ bufferOf 2 = some .bsw := by
  decide +kernel

theorem test_witness_CrcDetectsOneFlippedBit : (7 : Nat) < 8 := by decide

/-- "abab", which has three tokens with a window and two bytes per match. -/
def abab : State := { load [0x61#8, 0x62#8, 0x61#8, 0x62#8] tiny with window := 4#16, lookahead := 2#16 }

/-- Five literals, one more than `tiny` has room for. -/
def abcde : State := load [0x61#8, 0x62#8, 0x63#8, 0x64#8, 0x65#8] tiny

theorem test_witness_LzCompResult : Ready abab ∧ abab.cap.Valid ∧ abab.srcLen.toNat ≤ abab.cap.bufCap ∧
    (lzCompress (bufferBytes abab .src) abab.window.toNat abab.lookahead.toNat).length ≤ abab.cap.tokCap ∧
    Ready abcde ∧ abcde.cap.Valid ∧ abcde.srcLen.toNat ≤ abcde.cap.bufCap ∧
    abcde.cap.tokCap < (lzCompress (bufferBytes abcde .src) abcde.window.toNat abcde.lookahead.toNat).length := by
  decide +kernel

theorem test_witness_LzDecompResult :
    (tiny.tokCnt.toNat ≤ tiny.cap.tokCap ∧ lzDecompress 8 (tiny.ctl == 1#1) tiny.origLen.toNat
      ((List.range tiny.tokCnt.toNat).map (tokenAt tiny)) = .ok []) ∧
    lzDecompress 8 true 1 ((List.range tiny.tokCnt.toNat).map (tokenAt tiny)) = .error ⟨.decompressionFailed, 0⟩ ∧
    { tiny with tokCnt := 5#64 }.cap.tokCap < { tiny with tokCnt := 5#64 }.tokCnt.toNat ∧
    tiny.cap.Valid ∧
    -- a prefix that replays to one byte, then: an offset beyond it, an offset 0, a match that fills 8 bytes, the sentinel
    lzDecompress 8 false 0 [⟨0#16, 0#16, 0x61#8⟩] = .ok [0x61#8] ∧ (1 < (2#16 : BitVec 16).toNat) ∧
    ((7#16 : BitVec 16) ≠ 0#16 ∧ (0#16 : BitVec 16) = 0#16) ∧ 8 < 1 + (8#16 : BitVec 16).toNat ∧
    8 = 1 + (7#16 : BitVec 16).toNat ∧ 1 + (6#16 : BitVec 16).toNat < 8 ∧ 1 + (3#16 : BitVec 16).toNat = 4 ∧
    lzDecompress 8 false 0 [⟨0#16, 0#16, 0x61#8⟩, ⟨1#16, 3#16, 0#8⟩] = .ok [0x61#8, 0x61#8, 0x61#8, 0x61#8, 0#8] := by
  decide +kernel

/-- V-L20, V-L23, V-L24 and a match that does not fit: the errors of the clauses of `LzDecompResult`. -/
theorem test_witness_LzDecompResult_errors :
    after errorOf .lzDecomp (loadTokens [⟨1#16, 1#16, 0x61#8⟩] tiny) = some (2#8, 0#64, 0#64) ∧
    after errorOf .lzDecomp (loadTokens [⟨0#16, 0#16, 0x61#8⟩, ⟨5#16, 0#16, 0x62#8⟩] tiny) = some (2#8, 1#64, 0#64) ∧
    after errorOf .lzDecomp { loadTokens [⟨0#16, 0#16, 0x61#8⟩] tiny with origLen := 2#64 } =
      some (6#8, 1#64, 0#64) ∧
    after errorOf .lzDecomp (loadTokens [⟨0#16, 0#16, 0x61#8⟩, ⟨1#16, 7#16, 0x62#8⟩] tiny) =
      some (9#8, 8#64, 0#64) := by decide +kernel

theorem test_witness_TokenSerialisationCommands :
    (let s := loadTokens [⟨3#16, 6#16, 0x64#8⟩] tiny
     Ready s ∧ s.cap.Valid ∧ s.tokCnt.toNat ≤ s.cap.tokCap ∧ 5 * s.tokCnt.toNat ≤ s.cap.bufCap) ∧
    (let s := load [0#8, 3#8, 0#8, 6#8, 0x64#8] tiny
     Ready s ∧ s.cap.Valid ∧ s.srcLen.toNat ≤ s.cap.bufCap ∧ s.srcLen.toNat % 5 = 0 ∧ s.srcLen.toNat / 5 ≤ s.cap.tokCap) ∧
    (let s := load aab tiny
     Ready s ∧ s.srcLen.toNat ≤ s.cap.bufCap ∧ s.srcLen.toNat % 5 ≠ 0) ∧
    (let s := { tiny with tokCnt := 5#64 }
     Ready s ∧ s.cap.tokCap < s.tokCnt.toNat) ∧
    (let s := { tiny with tokCnt := 2#64 }
     Ready s ∧ s.cap.Valid ∧ s.tokCnt.toNat ≤ s.cap.tokCap ∧ s.cap.bufCap < 5 * s.tokCnt.toNat) ∧
    (let s := { State.resetWith ⟨10, 1⟩ with srcLen := 10#64 }
     Ready s ∧ s.srcLen.toNat ≤ s.cap.bufCap ∧ s.srcLen.toNat % 5 = 0 ∧ s.cap.tokCap < s.srcLen.toNat / 5) := by
  decide +kernel

theorem test_witness_LzFidelity : (65535 : Nat) < 65536 ∧ aab.length ≤ 3 ∧ aab.length < 4 := by decide

theorem test_witness_LongestNearestMatch : (65535 : Nat) < 65536 ∧ (2 : Nat) < aab.length ∧
    (longestMatch aab 4 4 1).1 ≠ 0 ∧ ⟨1#16, 1#16, 0x62#8⟩ ∈ lzCompress aab 4 4 ∧ 1 ≤ min 4 1 ∧
    (lzCompress aab 4 4)[1]? = some ⟨1#16, 1#16, 0x62#8⟩ ∧
    matchLen (min 4 (aab.length - 1)) (aab.drop (1 - 1)) (aab.drop 1) = 1 := by decide +kernel

theorem test_witness_HufFreqCounts : Ready (load aab tiny) ∧ (load aab tiny).cap.Valid ∧
    (load aab tiny).srcLen.toNat ≤ (load aab tiny).cap.bufCap := by decide +kernel

theorem test_witness_HufBuildResult : Ready tiny ∧ freqTotal (countFreq aab) < 2 ^ 64 ∧
    2 ^ 64 ≤ freqTotal (((Table.fill 0#64).put 0#8 0x8000000000000000#64).put 1#8 0x8000000000000000#64) ∧
    ∀ x : Byte, tiny.freq.get x = 0#64 :=
  ⟨rfl, by decide +kernel, by decide +kernel, fun x => Laws.get_fill 0#64 x⟩

theorem test_witness_BuildTreeShape : 2 = allSymbols.countP (fun x => (countFreq aab).get x != 0#64) ∧
    (buildTree (countFreq aab)).1[2]? = some ⟨.internal, 0#8, 3#64, 0x61#8, 1#10, 0#10⟩ := by decide +kernel

theorem test_witness_HufCodesAndLens : Ready tiny ∧ tiny.root = 0x3FF#10 ∧ { tiny with root := 0#10 }.root ≠ 0x3FF#10 ∧
    [leafNode 5#8 1#64][0]? = some (leafNode 5#8 1#64) ∧ (leafNode 5#8 1#64).kind = .leaf ∧
    freqTotal (countFreq aab) < 2 ^ 64 ∧
    2 ≤ allSymbols.countP (fun x => (countFreq aab).get x != 0#64) := by decide +kernel

theorem test_witness_HufCanonResult : Ready tiny ∧ canonical twoLengths = .ok twoCodes ∧
    canonical (twoLengths.put 0x63#8 1#8) = .error ⟨.corruptHeader, 0x63⟩ := by decide +kernel

/-- `twoLengths` with a third symbol of length 1: the values 0, 1, 2, of which the last does not fit. -/
def threeLengths : Table (BitVec 8) := twoLengths.put 0x63#8 1#8

theorem threeLengths_get (x : Byte) : threeLengths.get x =
    if x = 0x61#8 ∨ x = 0x62#8 ∨ x = 0x63#8 then 1#8 else 0#8 := by
  simp only [threeLengths, twoLengths, Laws.get_put, Laws.get_fill]
  by_cases h1 : 0x63#8 = x <;> by_cases h2 : 0x62#8 = x <;> by_cases h3 : 0x61#8 = x <;> simp_all [eq_comm]

theorem threeLengths_coded {x : Byte} : Coded threeLengths x ↔ x = 0x61#8 ∨ x = 0x62#8 ∨ x = 0x63#8 := by
  rw [Coded, threeLengths_get]
  split <;> simp_all

/-- V-H7, three symbols of length 1: the values of the assignment, the first that does not fit, and what the rule says
of it. -/
theorem test_witness_HufCanonResult_values :
    (CanonicalValues threeLengths fun x => x.toNat - 0x61) ∧ Coded threeLengths 0x63#8 ∧
    2 ^ (threeLengths.get 0x63#8).toNat ≤ (0x63#8 : Byte).toNat - 0x61 ∧
    (∀ y : Byte, Coded threeLengths y → Earlier threeLengths y 0x63#8 →
      y.toNat - 0x61 < 2 ^ (threeLengths.get y).toNat) ∧
    after errorOf .hufCanon { tiny with len := threeLengths } = some (4#8, 0x63#64, 0#64) := by
  refine ⟨⟨fun y hy first => ?_, fun x y hx hy hxy next => ?_⟩, threeLengths_coded.mpr (by decide), by decide +kernel,
    fun y hy hyx => ?_, by decide +kernel⟩
  · rcases threeLengths_coded.mp hy with rfl | rfl | rfl
    · rfl
    · exact absurd (by decide +kernel) (first 0x61#8 (by decide +kernel))
    · exact absurd (by decide +kernel) (first 0x61#8 (by decide +kernel))
  · rcases threeLengths_coded.mp hx with rfl | rfl | rfl <;> rcases threeLengths_coded.mp hy with rfl | rfl | rfl
    case inl.inr.inr => exact absurd (by decide +kernel) (next 0x62#8 (by decide +kernel))
    all_goals first
      | decide +kernel
      | exact absurd hxy (by decide +kernel)
  · rcases threeLengths_coded.mp hy with rfl | rfl | rfl
    · decide +kernel
    · decide +kernel
    · exact absurd hyx (by decide +kernel)

theorem test_witness_CanonicalTablesArePrefixFree : canonical twoLengths = .ok twoCodes ∧
    2 ^ 255 < kraftSum (twoLengths.put 0x63#8 255#8) ∧ ¬ 2 ^ 255 < kraftSum twoLengths := by decide +kernel

/-- "aab" with its codes. -/
def coded : State := { load aab tiny with code := twoCodes, symCnt := 3#64 }

theorem test_witness_HufEncAppendsCodes : Ready coded ∧ coded.cap.Valid ∧ WriterInv coded ∧
    coded.srcLen.toNat ≤ coded.cap.bufCap ∧ (∀ x ∈ bufferBytes coded .src, (coded.code.get x).len ≠ 0#8) ∧
    RoomFor ((bufferBytes coded .src).flatMap fun x => codeBits (coded.code.get x)).length coded ∧
    (let s := { load [0x61#8, 0x7A#8, 0x62#8] tiny with code := twoCodes }
     bufferBytes s .src = [0x61#8] ++ 0x7A#8 :: [0x62#8] ∧ (∀ y ∈ [0x61#8], (s.code.get y).len ≠ 0#8) ∧
       (s.code.get 0x7A#8).len = 0#8 ∧ RoomFor ([0x61#8].flatMap fun y => codeBits (s.code.get y)).length s) ∧
    (let s := { full with src := Sparse.ofList aab, srcLen := 3#64, code := twoCodes }
     [0x61#8] <+: bufferBytes s .src ∧ (∀ y ∈ [0x61#8], (s.code.get y).len ≠ 0#8) ∧
       ¬ RoomFor ([0x61#8].flatMap fun y => codeBits (s.code.get y)).length s) :=
  ⟨rfl, by decide +kernel, ⟨by decide +kernel, by decide +kernel⟩, by decide +kernel, by decide +kernel,
    by decide +kernel⟩

theorem test_witness_HufDecResult : { tiny with rSel := 1#2 }.rSel = 1#2 ∧ tiny.rSel ≠ 1#2 ∧
    readerBlocked tiny = false ∧ (huffDecode twoCodes true [false, true] 1 8 0 0).ending = .returned ∧
    (huffDecode twoCodes true [false] 2 8 0 0).ending = .exhausted ∧
    (huffDecode twoCodes false [false] 0 0 0 0).ending = .full ∧ tiny.cap.bufCap < 2 ^ 64 := by decide +kernel

/-- V-H9: the one code "000". -/
def oneCode : Table CodeEntry := (Table.fill ⟨0#8, 0⟩).put 5#8 ⟨3#8, 0⟩

theorem oneCode_get (x : Byte) : oneCode.get x = if 5#8 = x then ⟨3#8, 0⟩ else ⟨0#8, 0⟩ := by
  rw [oneCode, Laws.get_put, Laws.get_fill]

theorem oneCode_coded {x : Byte} : (oneCode.get x).len ≠ 0#8 ↔ x = 5#8 := by
  rw [oneCode_get]
  split <;> simp_all [eq_comm]

/-- A reader over one byte, with room for `cap` bytes, `count` symbols asked for in mode `ctl`. -/
def decoding (cap : Nat) (byte : Byte) (ctl : BitVec 1) (count : BitVec 64) : State :=
  { load [byte] (State.resetWith ⟨cap, 1⟩) with code := oneCode, ctl := ctl, symCnt := count }

/-- V-H9 over `1F` (one symbol, then bits that complete no code) and over `00` with room for one symbol. -/
theorem test_witness_HufDecResult_symbols : PrefixFree oneCode ∧ CodesFit oneCode ∧
    (∀ x ∈ [(5#8 : Byte), 5#8], (oneCode.get x).len ≠ 0#8) ∧
    (∀ x : Byte, (oneCode.get x).len ≠ 0#8 → ¬ codeBits (oneCode.get x) <+: [true, true, true, true, true]) ∧
    (∀ x : Byte, (oneCode.get x).len ≠ 0#8 → ¬ codeBits (oneCode.get x) <+: [false, false]) ∧
    (∀ s ∈ [decoding 8 0x1F#8 0#1 1#64, decoding 8 0x1F#8 0#1 2#64, decoding 8 0x1F#8 1#1 1#64,
        decoding 8 0x1F#8 1#1 2#64], Ready s ∧ s.rSel ≠ 1#2 ∧ readerBlocked s = false ∧ s.cap.bufCap < 2 ^ 64 ∧
      remainingBits s = ([5#8].flatMap fun x => codeBits (oneCode.get x)) ++ [true, true, true, true, true]) ∧
    (∀ s ∈ [decoding 1 0x00#8 0#1 2#64, decoding 1 0x00#8 1#1 2#64], readerBlocked s = false ∧
      s.cap.bufCap < [(5#8 : Byte), 5#8].length ∧
      remainingBits s = ([5#8, 5#8].flatMap fun x => codeBits (oneCode.get x)) ++ [false, false]) := by
  refine ⟨fun a b hab ha hb => ?_, fun a => ?_, by decide +kernel, fun x hx => ?_, fun x hx => ?_, by decide +kernel,
    by decide +kernel⟩
  · exact absurd ((oneCode_coded.mp ha).trans (oneCode_coded.mp hb).symm) hab
  · rw [oneCode_get]
    split <;> decide
  · rw [oneCode_coded.mp hx]
    decide +kernel
  · rw [oneCode_coded.mp hx]
    decide +kernel

/-- V-H9 in legacy mode, and the decoders that run out of room. -/
theorem test_witness_HufDecResult_runs :
    after (fun s => (s.err, bufferBytes s .dst, s.rByte, s.rBit)) .hufDec (decoding 8 0x1F#8 0#1 2#64) =
      some (0#8, [5#8], 1#64, 0#3) ∧
    after (fun s => (errorOf s, s.rByte, s.rBit)) .hufDec (decoding 1 0x00#8 0#1 2#64) =
      some ((9#8, 1#64, 0#64), 0#64, 6#3) ∧
    after (fun s => (errorOf s, s.rByte, s.rBit)) .hufDec (decoding 1 0x00#8 1#1 2#64) =
      some ((9#8, 1#64, 0#64), 0#64, 6#3) := by decide +kernel

theorem test_witness_HufEncodeDecodeRoundTrip : Ready coded ∧ coded.cap.Valid ∧
    coded.srcLen.toNat ≤ coded.cap.bufCap ∧ coded.ctl = 1#1 ∧ coded.symCnt = coded.srcLen ∧
    canonical twoLengths = .ok coded.code ∧ (∀ x ∈ bufferBytes coded .src, (coded.code.get x).len ≠ 0#8) ∧
    ((bufferBytes coded .src).flatMap fun x => codeBits (coded.code.get x)).length ≤ 8 * coded.cap.bufCap := by
  decide +kernel

theorem test_witness_EncoderLengthTableCoversTheStream : aab ≠ [] ∧ aab.length < 2 ^ 64 := by decide +kernel

/-- "aab" in a block with room for its frames. -/
def framing : State := { load aab roomy with chunkSz := 3#64 }

theorem test_witness_PlainAndHybridFrames : Ready framing ∧ framing.cap.Valid ∧ framing.srcLen ≠ 0#64 ∧
    framing.srcLen.toNat ≤ framing.cap.bufCap ∧ canonical (streamLengths (bufferBytes framing .src)) = .ok twoCodes ∧
    (magicHuf2 ++ (streamLengths aab).entries ++ toLe 4 (crc32 (packBits (streamBits twoCodes aab))).toNat ++
      packBits (streamBits twoCodes aab)).length ≤ framing.cap.bufCap ∧
    -- the sizes that do not fit: 3 bytes of payload in 2, the frame in 8, 3 tokens in 2, 15 bytes of tokens in 8
    2 < (packBits (streamBits twoCodes (List.replicate 17 0x61#8))).length ∧
    (packBits (streamBits twoCodes aab)).length ≤ 8 ∧ 8 < (frameOf magicHuf2 aab twoCodes).length ∧
    2 < (lzCompress aab 0 0).length ∧ 8 < (tokensToBytes (lzCompress aab 0 0)).length := by decide +kernel

theorem exists_ok {α : Type} {p : α → Bool} : ∀ {e : Except CmdError α},
    (match e with | .ok a => p a | .error _ => false) = true → ∃ a : α, e = .ok a ∧ p a = true
  | .ok a, h => ⟨a, rfl, h⟩

theorem test_witness_ContainerAndStoredFrames : Ready framing ∧ framing.cap.Valid ∧ framing.chunkSz ≠ 0#64 ∧
    (∃ blobs : List Encoded, encodeChunks framing.cap.bufCap (chunksOf framing.chunkSz.toNat (bufferBytes framing .src)) =
      .ok blobs ∧ decide ((containerBytes (blobs.map Encoded.frame)).length ≤ framing.cap.bufCap) = true) ∧
    (load aab roomy).chunkSz = 0#64 ∧ 12 + framing.srcLen.toNat ≤ framing.cap.bufCap ∧
    (let s := { load aab tiny with chunkSz := 3#64 }
     s.cap.bufCap < 12 + s.srcLen.toNat ∧ chunksOf s.chunkSz.toNat (bufferBytes s .src) = [] ++ aab :: [] ∧
      encodeChunks s.cap.bufCap [] = .ok [] ∧ canonical (streamLengths aab) = .ok twoCodes ∧
      (packBits (streamBits twoCodes aab)).length ≤ s.cap.bufCap ∧
      s.cap.bufCap < (frameOf magicHuf2 aab twoCodes).length) ∧
    (tiny.srcLen = 0#64 ∧ tiny.cap.bufCap < 12) :=
  ⟨rfl, by decide +kernel, by decide +kernel, exists_ok (by decide +kernel), by decide +kernel, by decide +kernel,
    by decide +kernel, by decide +kernel⟩

/-- "aab" in a block whose buffers hold its blob and not the container around it. -/
def cramped : State := { load aab (State.resetWith ⟨270, 1⟩) with chunkSz := 3#64 }

theorem test_witness_ContainerAndStoredFrames_full : Ready cramped ∧ cramped.cap.Valid ∧
    (∀ chunk ∈ chunksOf cramped.chunkSz.toNat (bufferBytes cramped .src), canonical (streamLengths chunk) = .ok twoCodes ∧
      (frameOf magicHuf2 chunk twoCodes).length ≤ cramped.cap.bufCap) ∧
    ∃ blobs : List Encoded,
      encodeChunks cramped.cap.bufCap (chunksOf cramped.chunkSz.toNat (bufferBytes cramped .src)) = .ok blobs ∧
      decide (cramped.cap.bufCap < (containerBytes (blobs.map Encoded.frame)).length ∧
        (containerBytes (blobs.map Encoded.frame)).length < 2 ^ 64) = true :=
  ⟨rfl, by decide +kernel, by decide +kernel, exists_ok (by decide +kernel)⟩

theorem test_witness_EmptyInputGivesEmptyFileFrame : (let s := State.resetWith ⟨12, 1⟩
    Ready s ∧ s.srcLen = 0#64 ∧ 12 ≤ s.cap.bufCap) := by decide +kernel

theorem test_witness_MagicClassification : Ready (load aab tiny) ∧
    (load aab tiny).srcLen.toNat ≤ (load aab tiny).cap.bufCap ∧
    ([0x53#8, 0x54#8, 0x4F#8, 0x52#8] <+: bufferBytes (load [0x53#8, 0x54#8, 0x4F#8, 0x52#8] tiny) .src) ∧
    (∀ m ∈ [magicHuf1, magicHuf2, magicHybrid, magicPar, magicStor], ¬ m <+: bufferBytes (load aab tiny) .src) := by
  decide +kernel

theorem test_witness_FrameDecodeResult : Ready (load frameOfA roomy) ∧
    (load frameOfA roomy).srcLen.toNat ≤ (load frameOfA roomy).cap.bufCap ∧
    (decodeFrame (load [] roomy) .stor (storFrame aab)).result = .ok aab ∧
    (decodeFrame (load [] roomy) .unrecognised aab).result = .error ⟨.invalidMagic, 0⟩ ∧
    (let f := emptyFrame ++ [1#8]
     magicHuf1 <+: f ∧ 12 ≤ f.length ∧ fromLe ((f.drop 4).take 8) = 0) ∧
    (let f := magicHuf1 ++ toLe 8 3
     magicHuf1 <+: f ∧ 12 ≤ f.length ∧ fromLe ((f.drop 4).take 8) ≠ 0 ∧ (f.take 11).length < 12) ∧
    (let body := List.replicate 258 1#8
     (body.take 255).length < 256 ∧ (∃ x ∈ body.take 256, x ≠ 0#8) ∧ 256 ≤ body.length ∧ body.length < 260) ∧
    (∀ x ∈ (List.replicate 256 (0#8 : Byte)).take 256, x = 0#8) ∧
    (let body := List.replicate 256 1#8 ++ toLe 4 (crc32 [0#8]).toNat ++ [0#8]
     260 ≤ body.length ∧ (crc32 (body.drop 260)).toNat = fromLe ((body.drop 256).take 4) ∧
       canonical (lengthTable body) = .error ⟨.corruptHeader, (2#8 : Byte).toNat⟩) ∧
    (let f := storFrame aab
     magicStor <+: f ∧ f.length = 12 + fromLe ((f.drop 4).take 8) ∧
       (f ++ [0#8]).length ≠ 12 + fromLe (((f ++ [0#8]).drop 4).take 8) ∧ (f.take 11).length < 12) := by decide +kernel

/-- The containers of the clauses: V-F39 (too short), a count without its sizes, sizes without their blobs, one chunk
where `ORIGLEN` and `CHUNKSZ` ask for none, and one whose blob is no `HUF2` frame. -/
theorem test_witness_FrameDecodeResult_containers :
    after errorOf .frmDec (load magicPar roomy) = some (8#8, 0#64, 0#64) ∧
    after errorOf .frmDec { load magicPar roomy with chunkSz := 4#64 } = some (4#8, 7#64, 0#64) ∧
    after errorOf .frmDec { load (magicPar ++ toLe 8 1) roomy with chunkSz := 4#64 } = some (4#8, 1#64, 0#64) ∧
    after errorOf .frmDec { load (magicPar ++ toLe 8 1 ++ toLe 8 2) roomy with ctl := 0#1 } =
      some (4#8, 1#64, 0#64) ∧
    after errorOf .frmDec { load (magicPar ++ toLe 8 1 ++ toLe 8 0) roomy with chunkSz := 4#64 } =
      some (4#8, 1#64, 0#64) ∧
    after (fun s => (s.err, s.errInfo, s.res)) .frmDec
      { load (magicPar ++ toLe 8 1 ++ toLe 8 2 ++ [0#8, 0#8]) roomy with ctl := 0#1 } = some (3#8, 0#64, 4#64) := by
  decide +kernel

/-- A block reads back the bytes it was loaded with. -/
theorem bufferBytes_load {bytes : List Byte} (s : State) (h : bytes.length < 2 ^ 64) :
    bufferBytes (load bytes s) .src = bytes := by
  have hl : bufferLen (load bytes s) .src = bytes.length := (BitVec.toNat_ofNat _ _).trans (Nat.mod_eq_of_lt h)
  refine List.ext_getElem (by simp [hl]) fun k _ hk => ?_
  simp [bufferBytes, bufferByte, bufferCells, load, hk]

/-- V-F30: a table that over-subscribes and a CRC field of zeros after `magic`. -/
def badSum (magic : List Byte) : List Byte := magic ++ List.replicate 256 1#8 ++ List.replicate 4 0#8 ++ [0#8]

/-- The same in a container, after the blob of an all-zero table. -/
def badBlobs : List (List Byte) := [magicHuf2 ++ List.replicate 256 0#8] ++ badSum magicHuf2 :: []

def badContainer : State :=
  load (magicPar ++ toLe 8 badBlobs.length ++ badBlobs.flatMap (fun b => toLe 8 b.length) ++ badBlobs.flatten)
    { roomy with chunkSz := 1#64, origLen := 2#64 }

theorem test_witness_ChecksumIsVerifiedBeforeDecoding :
    (List.replicate 256 (1#8 : Byte)).length = 256 ∧ (∃ x ∈ List.replicate 256 (1#8 : Byte), x ≠ 0#8) ∧
    (List.replicate 4 (0#8 : Byte)).length = 4 ∧ (crc32 [0#8]).toNat ≠ fromLe (List.replicate 4 (0#8 : Byte)) ∧
    (∀ magic ∈ [magicHuf2, magicHybrid], Ready (load (badSum magic) roomy) ∧
      (load (badSum magic) roomy).srcLen.toNat ≤ roomy.cap.bufCap ∧
      bufferBytes (load (badSum magic) roomy) .src = badSum magic) ∧
    Ready badContainer ∧ badContainer.srcLen.toNat ≤ badContainer.cap.bufCap ∧
    bufferBytes badContainer .src = magicPar ++ toLe 8 badBlobs.length ++
      badBlobs.flatMap (fun b => toLe 8 b.length) ++ badBlobs.flatten ∧
    badBlobs.length = ceilDiv badContainer.origLen.toNat badContainer.chunkSz.toNat ∧
    (decodeChunks badContainer.cap.bufCap true 2 1 0 [260] badContainer.crcr
      (magicHuf2 ++ List.replicate 256 0#8)).result = .ok [] := by
  refine ⟨List.length_replicate, ⟨1#8, List.mem_replicate.mpr ⟨by decide, rfl⟩, by decide⟩, rfl, by decide +kernel, fun magic hm => ⟨rfl, ?_, ?_⟩,
    rfl, by decide +kernel, bufferBytes_load _ (by decide +kernel), by decide +kernel, by decide +kernel⟩
  · revert magic
    decide +kernel
  · refine bufferBytes_load _ ?_
    revert magic
    decide +kernel

/-- V-F30 in the container: the mismatch is raised, not the error of the table. -/
theorem test_badContainer : after errorOf .frmDec badContainer = some (5#8, 0#64, 0#64) := by decide +kernel

/-- A meaning that leaves no error pending answers a ready next state. -/
theorem next_ready {i : Instr} {s : State} (h : after (fun t => t.err) i s = some 0#8) :
    ∃ u : State, exec i s = .next u ∧ Ready u := by
  obtain ⟨u, hu⟩ := Laws.exec_next i s
  simp only [after, hu, Option.some.injEq] at h
  exact ⟨u, hu, h⟩

theorem test_witness_FrameRoundTrips : Ready framing ∧ framing.cap.Valid ∧ framing.ctl = 1#1 ∧
    (∀ i ∈ [Instr.frmEncStor, .frmEncPlain, .frmEncHyb, .frmEncPar], ∃ u : State, exec i framing = .next u ∧ Ready u) := by
  refine ⟨rfl, by decide +kernel, by decide +kernel, fun i hi => next_ready ?_⟩
  revert i
  decide +kernel

theorem test_witness_CommandFrames : tiny.cap.Valid ∧ ∃ t : State, exec .hufEnc coded = .next t ∧ Ready t :=
  ⟨by decide +kernel, ⟨_, rfl, by decide +kernel⟩⟩

/-- A block in the middle of its work meets the invariants, and steps. -/
theorem test_witness_StepKeepsInvariants :
    (let s := { reading 1#64 4#3 with inputs := [.write 0 0 (.word 0x16000003#64)] }
     MemoryInv s ∧ WriterInv s ∧ s.rSel ≠ 3#2 ∧ ErrorInv s ∧ ∃ t : State, step s = .next t) :=
  ⟨by constructor <;> decide +kernel,
    ⟨by decide +kernel, by decide +kernel⟩, by decide +kernel,
    ⟨by decide +kernel, fun _ => rfl, fun _ => rfl⟩, ⟨_, rfl⟩⟩

/-- The codes of `twoCodes` are "0" and "1". -/
theorem test_witness_StepKeepsCodePrefixFree : PrefixFree coded.code ∧ CodesFit coded.code ∧
    ∃ t : State, step coded = .next t := by
  have h : ∀ x : Byte, twoCodes.get x = if 0x62#8 = x then ⟨1#8, 1⟩ else if 0x61#8 = x then ⟨1#8, 0⟩ else ⟨0#8, 0⟩ :=
    fun x => by simp only [twoCodes, Laws.get_put, Laws.get_fill]
  refine ⟨fun a b hab ha hb => ?_, fun a => ?_, ⟨_, rfl⟩⟩
  · change (twoCodes.get a).len ≠ _ at ha
    change (twoCodes.get b).len ≠ _ at hb
    change ¬ codeBits (twoCodes.get a) <+: codeBits (twoCodes.get b)
    rw [h] at ha hb
    rw [h, h]
    split at ha <;> split at hb <;> try split at ha
    all_goals try split at hb
    all_goals first
      | exact absurd rfl ha
      | exact absurd rfl hb
      | (subst_vars; first | decide | exact absurd rfl hab)
  · change (twoCodes.get a).bits < 2 ^ (twoCodes.get a).len.toNat
    rw [h]
    split
    · decide
    · split <;> decide

theorem test_witness_ResetMeetsInvariants : (⟨1, 1⟩ : Config).Valid ∧ (⟨2 ^ 60 - 1, 2 ^ 60 - 1⟩ : Config).Valid := by
  decide +kernel

/-- Two states that differ in a byte beyond `SRC_LEN`. -/
theorem test_witness_UnspecifiedContentIsNeverRead :
    SameBelow (load aab tiny) { load aab tiny with src := Sparse.ofList (aab ++ [0x7A#8]) } ∧
      (∃ t : State, exec .lzComp (load aab tiny) = .next t) ∧
      ∃ t : State, exec .lzComp { load aab tiny with src := Sparse.ofList (aab ++ [0x7A#8]) } = .next t :=
  ⟨⟨rfl, by decide +kernel, fun _ _ => rfl, fun _ _ => rfl, fun _ _ => rfl, fun _ _ => rfl⟩, ⟨_, rfl⟩, ⟨_, rfl⟩⟩

theorem test_witness_EncoderAndDecoderAgreeOnNothingElse : (∃ t : State, exec .frmEncPlain framing = .next t) ∧
    ∃ t : State, exec .frmDec framing = .next t := ⟨⟨_, rfl⟩, ⟨_, rfl⟩⟩

end Sys2Proof.Tests
end

/-! ## Running a command's pseudocode -/

section

namespace Sys2Proof.Proofs

open Sys2Proof.Machine Sys2Proof.Laws

/-- The state in which the pseudocode of command word `w` leaves the block meets `P`, when it raises an error
after the error was taken (60_exceptions.md R233). -/
def Meets (w : Word) (P : State → Prop) : Ran → Prop
  | .done t => P t
  | .raised e t => P (takeError w e t)

section
variable {w : Word} {P : State → Prop} {s : State}

/-- What holds before a command and is met by its pseudocode holds after the command, pending error or not. -/
theorem command_meets {body : State → Ran} (hs : P s) (hb : Meets w P (body s)) :
    ∀ t : State, command w s body = .next t → P t := by
  intro t h
  rcases command_cases h with ⟨_, rfl⟩ | ⟨_, hd⟩ | ⟨_, e, u, hr, rfl⟩
  · exact hs
  · rwa [hd] at hb
  · rwa [hr] at hb

/-- A producer of `DST` meets `P` when its output does and every failure does. -/
theorem meets_produceDst {r : Except CmdError (List Byte)} (hok : ∀ out : List Byte, r = .ok out → P (putDst out s))
    (herr : ∀ e : CmdError, P (takeError w e (failDst s))) : Meets w P (produceDst s r) := by
  rcases produceDst_cases (rfl : produceDst s r = produceDst s r) with ⟨out, hr, hx⟩ | ⟨e, _, hx⟩ <;> rw [hx]
  · exact hok out hr
  · exact herr e

/-- A frame encoder meets `P` when the empty-file frame, the frame of `enc` and every failure do
(44_frame.md R182, R199; 60_exceptions.md R234). -/
theorem meets_frameEncode {enc : List Byte → Except CmdError Encoded}
    (hempty : emptyFrame.length ≤ s.cap.bufCap → P (encodedState emptyFrame 0 s.crcr s))
    (henc : ∀ (data : List Byte) (r : Encoded), enc data = .ok r → P (encodedState r.frame r.nsym r.crc s))
    (herr : ∀ e : CmdError, P (takeError w e (failDst s))) : Meets w P (frameEncode s enc) := by
  unfold frameEncode finishEncode
  split
  next r hr =>
    split at hr
    · cases hr
    · split at hr
      · split at hr
        · cases hr
        · cases hr
          obtain ⟨rfl, hlen⟩ := checkBytes_ok.mp ‹_›
          exact hempty hlen
      · exact henc _ r hr
  next e _ => exact herr e

/-- A writer command meets `P` when its success does and an error with the writer as before does
(60_exceptions.md R234). -/
theorem meets_writerCommand {r : Except CmdError State} (hok : ∀ t : State, r = .ok t → P t)
    (herr : ∀ e : CmdError, P (takeError w e s)) : Meets w P (writerCommand s r) := by
  cases r with
  | ok t => exact hok t rfl
  | error e => exact herr e

end

end Sys2Proof.Proofs
end

/-! ## The sizes of what the commands produce -/

section

namespace Sys2Proof.Proofs

open Sys2Proof.Machine Sys2Proof.Laws

/-! ### The decoders -/

/-- The decoding loop puts out at most as many symbols as there is room for (43_huffman.md R165). -/
theorem huffDecode_out_length_le (c : Table CodeEntry) (bound : Bool) (bits : List Bool) :
    ∀ left room cl cv : Nat, (huffDecode c bound bits left room cl cv).out.length ≤ room := by
  induction bits with
  | nil => intro left room cl cv; simp [huffDecode]
  | cons b bs ih =>
    intro left room cl cv
    by_cases hstop : bound = true ∧ left = 0
    · rw [huffDecode, if_pos hstop]
      exact Nat.zero_le _
    have hgo : bound = true → left ≠ 0 := fun hb hl => hstop ⟨hb, hl⟩
    cases hf : findSymbol c (cl + 1) (2 * cv + b.toNat) with
    | none =>
      rw [huffDecode_extend hgo hf]
      exact ih left room _ _
    | some x =>
      rw [huffDecode_emit hgo hf]
      split
      · exact Nat.zero_le _
      · have := ih (left - 1) (room - 1) 0 0
        simp only [List.length_cons]
        omega

/-- What the decoding loop returns fits the capacity it was given. -/
theorem decodedResult_fits {bufCap byte : Nat} {d : Decoded} {out : List Byte} (hd : d.out.length ≤ bufCap)
    (h : decodedResult bufCap byte d = .ok out) : out.length ≤ bufCap := by
  unfold decodedResult at h
  split at h <;> cases h
  exact hd

theorem appendOut_fits {bufCap : Nat} {out out' : List Byte} {x : Byte} (h : appendOut bufCap out x = .ok out') :
    out'.length ≤ bufCap := by
  unfold appendOut at h
  split at h <;> cases h
  assumption

theorem copyBack_fits {bufCap o l : Nat} {out out' : List Byte} (hout : out.length ≤ bufCap)
    (h : copyBack bufCap o l out = .ok out') : out'.length ≤ bufCap := by
  induction l generalizing out with
  | zero => cases h; exact hout
  | succ l ih =>
    simp only [copyBack] at h
    split at h
    · exact ih (appendOut_fits ‹_›) h
    · cases h

/-- The replay of tokens never holds more than the capacity (42_lz77.md R135). -/
theorem lzReplay_fits {bufCap origlen : Nat} {bound : Bool} {toks : List Token} {i : Nat} {out out' : List Byte}
    (hout : out.length ≤ bufCap) (h : lzReplay bufCap bound origlen i out toks = .ok out') :
    out'.length ≤ bufCap := by
  induction toks generalizing i out with
  | nil => cases h; exact hout
  | cons t ts ih =>
    simp only [lzReplay] at h
    split at h
    · cases h
    · split at h
      · cases h
      · split at h
        · cases h
        next hcopy =>
          split at h
          · cases h; exact copyBack_fits hout hcopy
          · split at h
            · cases h
            · exact ih (appendOut_fits ‹_›) h

theorem lzDecompress_fits {bufCap origlen : Nat} {bound : Bool} {toks : List Token} {out : List Byte}
    (h : lzDecompress bufCap bound origlen toks = .ok out) : out.length ≤ bufCap := by
  unfold lzDecompress at h
  split at h
  · cases h
  next hr =>
    split at h <;> cases h
    rw [List.length_reverse]
    exact lzReplay_fits (Nat.zero_le _) hr

@[simp] theorem tokensToBytes_length (toks : List Token) : (tokensToBytes toks).length = 5 * toks.length := by
  simp [tokensToBytes, List.length_flatMap, Nat.mul_comm]

/-! ### The frame encoders -/

theorem checkBytes_fits {n : Nat} {xs ys : List Byte} (h : checkBytes n xs = .ok ys) : ys.length ≤ n := by
  obtain ⟨rfl, hlen⟩ := checkBytes_ok.mp h
  exact hlen

theorem encodeStream_fits {bufCap : Nat} {magic stream : List Byte} {r : Encoded}
    (h : encodeStream bufCap magic stream = .ok r) : r.frame.length ≤ bufCap := by
  simp only [encodeStream] at h
  split at h
  · cases h
  · split at h
    · cases h
    · split at h
      · cases h
      next hf =>
        cases h
        exact checkBytes_fits hf

theorem encodeHybrid_fits {cap : Config} {window lookahead : Nat} {data : List Byte} {r : Encoded}
    (h : encodeHybrid cap window lookahead data = .ok r) : r.frame.length ≤ cap.bufCap := by
  unfold encodeHybrid at h
  split at h
  · cases h
  · split at h
    · cases h
    · exact encodeStream_fits h

theorem encodePar_fits {bufCap size : Nat} {data : List Byte} {r : Encoded}
    (h : encodePar bufCap size data = .ok r) : r.frame.length ≤ bufCap := by
  unfold encodePar at h
  split at h
  · cases h
  · split at h
    · cases h
    · split at h
      · cases h
      next hf =>
        cases h
        exact checkBytes_fits hf

/-! ### The tree builder -/

theorem firstInQueue_mem (q : QueueEntry) (qs : List QueueEntry) : firstInQueue q qs ∈ q :: qs := by
  induction qs generalizing q with
  | nil => exact List.mem_cons_self
  | cons r rs ih =>
    unfold firstInQueue
    split
    · exact List.mem_cons_of_mem _ (ih r)
    · rcases List.mem_cons.mp (ih q) with h | h
      · rw [h]; exact List.mem_cons_self
      · exact List.mem_cons_of_mem _ (List.mem_cons_of_mem _ h)

/-- A pop takes an entry of the queue and leaves fewer entries, all of the queue (43_huffman.md R154). -/
theorem popFirst_some {qs rest : List QueueEntry} {m : QueueEntry} (h : popFirst qs = some (m, rest)) :
    m ∈ qs ∧ rest.length < qs.length ∧ rest ⊆ qs := by
  cases qs with
  | nil => cases h
  | cons q qs =>
    cases h
    have hm := firstInQueue_mem q qs
    refine ⟨hm, ?_, fun _ hx => List.mem_of_mem_filter hx⟩
    exact List.length_filter_lt_length_iff_exists.mpr ⟨_, hm, by simp⟩

/-- Every round of the merging loop adds one node and shortens the queue (43_huffman.md R154). -/
theorem mergeQueue_arena_length_le (fuel : Nat) (arena : List Node) (qs : List QueueEntry) :
    (mergeQueue fuel arena qs).1.length ≤ arena.length + (qs.length - 1) := by
  fun_induction mergeQueue fuel arena qs with
  | case1 | case2 | case3 | case4 | case5 => exact Nat.le_add_right _ _
  | case6 fuel arena q r qs a rest ha b rest' hb parent ih =>
    have h1 := (popFirst_some ha).2.1
    have h2 := (popFirst_some hb).2.1
    simp only [List.length_append, List.length_cons, List.length_nil] at ih h1 ⊢
    omega

/-- The root is an entry of the arena, when all waiting nodes are. -/
theorem mergeQueue_root_lt {fuel : Nat} {arena : List Node} {qs : List QueueEntry} {i : Nat}
    (hq : ∀ q ∈ qs, q.1 < arena.length) (h : (mergeQueue fuel arena qs).2 = some i) :
    i < (mergeQueue fuel arena qs).1.length := by
  fun_induction mergeQueue fuel arena qs with
  | case1 | case3 | case4 | case5 => cases h
  | case2 fuel arena q => cases h; exact hq q List.mem_cons_self
  | case6 fuel arena q r qs a rest ha b rest' hb parent ih =>
    refine ih (fun x hx => ?_) h
    rw [List.length_append]
    rcases List.mem_append.mp hx with hx | hx
    · exact Nat.lt_add_right _ (hq x ((popFirst_some ha).2.2 ((popFirst_some hb).2.2 hx)))
    · obtain rfl := List.mem_singleton.mp hx
      exact Nat.lt_succ_self _

theorem leavesOf_length_le (f : Table (BitVec 64)) : (leavesOf f).length ≤ 256 := by
  rw [leavesOf, List.length_map]
  refine (List.length_filter_le _ _).trans ?_
  simp [f.size_eq]

@[simp] theorem ofList_length {α : Type} (xs : List α) : (Sparse.ofList xs).length = xs.length := by
  have : ∀ (ys : List α) (i : Nat), (Sparse.listFrom i ys).length = ys.length := fun ys => by
    induction ys with
    | nil => exact fun _ => rfl
    | cons y ys ih => exact fun i => congrArg (· + 1) (ih (i + 1))
  exact this xs 0

/-- A tree of 256 leaves has at most 511 nodes (10_state.md R41). -/
theorem buildTree_arena_length_le (f : Table (BitVec 64)) : (buildTree f).1.length ≤ Config.nodeCap := by
  have h1 := mergeQueue_arena_length_le (leavesOf f).length (leavesOf f) (Sparse.ofList (leavesOf f))
  have h2 := leavesOf_length_le f
  rw [ofList_length] at h1
  simp only [buildTree, Config.nodeCap]
  omega

theorem buildTree_root_lt {f : Table (BitVec 64)} {i : Nat} (h : (buildTree f).2 = some i) :
    i < (buildTree f).1.length :=
  mergeQueue_root_lt (below_ofList (leavesOf f) le_rfl) h

end Sys2Proof.Proofs
end

/-! ## Every step is a chain of elementary updates -/

section

namespace Sys2Proof.Proofs

open Sys2Proof.Machine Sys2Proof.Laws

/-- The elementary changes of the state that the commands and the other moves of the port are made of, each with
the guard under which the block makes it. -/
inductive Update : State → State → Prop
  /-- Taking an error (60_exceptions.md R233). -/
  | error (w : Word) (e : CmdError) (s : State) : Update s (takeError w e s)
  /-- `SYS.CLRERR` (45_system.md R221). -/
  | acknowledge (s : State) : Update s (clearError s)
  /-- Either reset (10_state.md R44). -/
  | reset (s : State) : Update s (resetBlock s)
  /-- `BUF.SWAP` (45_system.md R223). -/
  | swap {s : State} (h : s.srcLen.toNat ≤ s.cap.bufCap) :
      Update s { s with src := s.dst, srcLen := s.dstLen, dst := s.src, dstLen := s.srcLen }
  /-- The writer made empty (40_bitstream.md R101). -/
  | emptyWriter (s : State) : Update s (clearWriter s)
  /-- A byte completed by the writer (40_bitstream.md R100). -/
  | completeByte {s : State} (acc : BitVec 8) (h : s.wLen.toNat < s.cap.bufCap) :
      Update s { s with bsw := Sparse.put s.bsw s.wLen.toNat acc, wLen := s.wLen + 1#64, wAcc := 0#8, wN := 0#3 }
  /-- A bit added to the partial byte, which stays partial (40_bitstream.md R100). -/
  | pendBit {s : State} (b : Bool) (h : s.wN ≠ 7#3) : Update s { s with wAcc := accWith s b, wN := s.wN + 1#3 }
  /-- The reader attached to a buffer (40_bitstream.md R106). -/
  | attach {sel : Nat} (h : sel < 3) (s : State) :
      Update s { s with rSel := BitVec.ofNat 2 sel, rByte := 0#64, rBit := 0#3 }
  /-- The reader's cursor moved (40_bitstream.md R105). -/
  | cursor (byte : BitVec 64) (bit : BitVec 3) (s : State) : Update s (setCursor byte bit s)
  /-- `RES` and `CRCR` written (10_state.md R14, R29). -/
  | results (v : BitVec 64) (c : BitVec 32) (s : State) : Update s { s with res := v, crcr := c }
  /-- Tokens stored (42_lz77.md R134, R140). -/
  | tokens {toks : List Token} {s : State} (h : toks.length ≤ s.cap.tokCap) : Update s (putTokens toks s)
  /-- A failing token producer (60_exceptions.md R234). -/
  | dropTokens (s : State) : Update s (failTokens s)
  /-- An output stored in `DST` (10_state.md R35). -/
  | output {out : List Byte} {s : State} (h : out.length ≤ s.cap.bufCap) : Update s (putDst out s)
  /-- A failing producer of `DST` (60_exceptions.md R234). -/
  | dropOutput (s : State) : Update s (failDst s)
  /-- `FREQ` written (43_huffman.md R151, 20_memory.md R56). -/
  | freq (f : Table (BitVec 64)) (s : State) : Update s { s with freq := f }
  /-- `LEN` written (43_huffman.md R159, 20_memory.md R56). -/
  | len (l : Table (BitVec 8)) (s : State) : Update s { s with len := l }
  /-- `TCODE` written (43_huffman.md R157). -/
  | tcode (c : Table CodeEntry) (s : State) : Update s { s with tcode := c }
  /-- A canonical table stored in `CODE` (43_huffman.md R162). -/
  | code {l : Table (BitVec 8)} {c : Table CodeEntry} (h : canonical l = .ok c) (s : State) :
      Update s { s with code := c }
  /-- The tree of a frequency table stored in the arena (43_huffman.md R155). -/
  | tree (f : Table (BitVec 64)) (s : State) :
      Update s { s with node := Sparse.ofList (buildTree f).1, nodeCnt := BitVec.ofNat 10 (buildTree f).1.length,
                        root := rootIndex (buildTree f).2 }
  /-- The registers a host may write (10_state.md R11). -/
  | parameters (ctl : BitVec 1) (arg0 : BitVec 64) (window lookahead : BitVec 16)
      (symCnt origLen chunkSz srcLen tokCnt : BitVec 64) (s : State) :
      Update s { s with ctl := ctl, arg0 := arg0, window := window, lookahead := lookahead, symCnt := symCnt,
                        origLen := origLen, chunkSz := chunkSz, srcLen := srcLen, tokCnt := tokCnt }
  /-- A byte of `SRC` written by the host (20_memory.md R56). -/
  | sourceByte {a : Nat} {s : State} (v : Byte) (h : a < s.cap.bufCap) :
      Update s { s with src := Sparse.put s.src a v }
  /-- An entry of `TOK` written by the host (20_memory.md R56). -/
  | token {i : Nat} {s : State} (k : Token) (h : i < s.cap.tokCap) : Update s { s with tok := Sparse.put s.tok i k }
  /-- What a host read returned (log entry 7). -/
  | answer (v : HostValue) (s : State) : Update s { s with answer := v }
  /-- A move taken off the list (log entries 1, 4). -/
  | take (rest : List Input) (s : State) : Update s (takeInput rest s)

/-- A chain of elementary updates. -/
abbrev Updates : State → State → Prop := Relation.ReflTransGen Update

/-- What every elementary update keeps, a chain of them keeps. -/
theorem Updates.keep {P : State → Prop} (hP : ∀ {s t : State}, Update s t → P s → P t) {s t : State}
    (h : Updates s t) (hs : P s) : P t := by
  induction h with
  | refl => exact hs
  | tail _ hu ih => exact hP hu ih

theorem Updates.single {s t : State} (h : Update s t) : Updates s t := Relation.ReflTransGen.single h

theorem Updates.raise {w : Word} {e : CmdError} {s t : State} (h : Updates s t) : Updates s (takeError w e t) :=
  h.tail (.error w e t)

/-! ### The writer and the reader -/

theorem appendByte_updates {acc : BitVec 8} {s t : State} (h : appendByteToWriter acc s = .ok t) :
    Updates s t := by
  rcases appendByte_cases acc s with ⟨_, e⟩ | ⟨hroom, e⟩ <;> rw [e] at h <;> cases h
  exact .single (.completeByte acc hroom)

theorem writeBit_updates {s t : State} {b : Bool} (h : writeBit s b = .ok t) : Updates s t := by
  unfold writeBit at h
  split at h
  · exact appendByte_updates h
  next hn =>
    cases h
    exact .single (.pendBit b hn)

theorem writeBits_updates {s t : State} {bs : List Bool} (h : writeBits s bs = .ok t) : Updates s t := by
  induction bs generalizing s with
  | nil => cases h; exact .refl
  | cons b bs ih =>
    simp only [writeBits] at h
    split at h
    · exact (writeBit_updates ‹_›).trans (ih h)
    · cases h

theorem flushWriter_updates {s t : State} (h : flushWriter s = .ok t) : Updates s t := by
  unfold flushWriter at h
  split at h
  · cases h; exact .refl
  · exact appendByte_updates h

theorem encodeSymbols_updates {s t : State} {i : Nat} {xs : List Byte} (h : encodeSymbols s i xs = .ok t) :
    Updates s t := by
  induction xs generalizing s i with
  | nil => cases h; exact .refl
  | cons x xs ih =>
    simp only [encodeSymbols] at h
    split at h
    · cases h
    · split at h
      · exact (writeBits_updates ‹_›).trans (ih h)
      · cases h

theorem readBit_updates {s t : State} {b : Bool} (h : readBit s = .ok (b, t)) : Updates s t := by
  rcases readBit_cases s with ⟨_, e⟩ | ⟨_, e⟩ <;> rw [e] at h <;> cases h
  rw [advanceCursor_frame]
  exact .single (.cursor _ _ s)

theorem readBits_updates {n v w : Nat} {s t : State} (h : readBits n v s = .ok (w, t)) : Updates s t := by
  rw [readBits_frame h]
  exact .single (.cursor _ _ s)

/-! ### The commands -/

/-- A command is a chain of updates when its pseudocode is, up to the raised error. -/
theorem command_updates {w : Word} {s t : State} {body : State → Ran} (h : command w s body = .next t)
    (hb : Meets w (Updates s) (body s)) : Updates s t :=
  command_meets .refl hb t h

/-- A producer of `DST` whose output fits is a chain of updates. -/
theorem produceDst_updates {w : Word} {s t : State} {r : Except CmdError (List Byte)} (hs : Updates s t)
    (hfit : ∀ out : List Byte, r = .ok out → out.length ≤ t.cap.bufCap) : Meets w (Updates s) (produceDst t r) :=
  meets_produceDst (fun out hr => hs.tail (.output (hfit out hr))) fun _ => Updates.raise (hs.tail (.dropOutput t))

theorem encodedState_updates {frame : List Byte} {nsym : Nat} {c : BitVec 32} {s : State}
    (h : frame.length ≤ s.cap.bufCap) : Updates s (encodedState frame nsym c s) :=
  ((Updates.single (.output h)).tail
    (.parameters s.ctl s.arg0 s.window s.lookahead (BitVec.ofNat 64 nsym) s.srcLen s.chunkSz s.srcLen s.tokCnt
      (putDst frame s))).tail (.results s.res c _)

/-- A frame encoder whose frames fit is a chain of updates. -/
theorem frameEncode_updates {w : Word} {s : State} {enc : List Byte → Except CmdError Encoded}
    (hfit : ∀ (data : List Byte) (r : Encoded), enc data = .ok r → r.frame.length ≤ s.cap.bufCap) :
    Meets w (Updates s) (frameEncode s enc) :=
  meets_frameEncode encodedState_updates (fun data r hr => encodedState_updates (hfit data r hr))
    fun _ => Updates.raise (Updates.single (.dropOutput s))

theorem writerCommand_updates {w : Word} {s : State} {r : Except CmdError State}
    (h : ∀ t : State, r = .ok t → Updates s t) : Meets w (Updates s) (writerCommand s r) :=
  meets_writerCommand h fun _ => Updates.raise .refl

theorem bufferOf_eq_some_lt {sel : Nat} {b : Buffer} (h : bufferOf sel = some b) : sel < 3 := by
  simpa [h] using bufferOf_isSome sel

/-- Every command is a chain of elementary updates. -/
theorem exec_updates {i : Instr} {s t : State} (h : exec i s = .next t) : Updates s t := by
  cases i with
  | sysNop => exact command_updates h .refl
  | sysClrerr => cases h; exact .single (.acknowledge s)
  | sysReset => cases h; exact .single (.reset s)
  | bufSwap =>
    refine command_updates h ?_
    split
    · exact Updates.raise .refl
    · exact Updates.single (.swap (Nat.not_lt.mp ‹_›))
  | bsWinit => exact command_updates h (Updates.single (.emptyWriter s))
  | bsWbit b => exact command_updates h (writerCommand_updates fun _ => writeBit_updates)
  | bsWbits n =>
    refine command_updates h ?_
    split
    · exact Updates.raise .refl
    · exact writerCommand_updates fun _ => writeBits_updates
  | bsFlush => exact command_updates h (writerCommand_updates fun _ => flushWriter_updates)
  | bsRinit sel =>
    refine command_updates h ?_
    split
    next hb => exact Updates.single (.attach (bufferOf_eq_some_lt hb) s)
    · exact Updates.raise .refl
  | bsRbit =>
    refine command_updates h ?_
    split
    · exact Updates.raise .refl
    · split
      next hr => exact (readBit_updates hr).tail (.results _ _ _)
      · exact Updates.raise .refl
  | bsRbits n =>
    refine command_updates h ?_
    split
    · exact Updates.raise .refl
    · split
      · exact Updates.raise .refl
      · split
        next hr => exact (readBits_updates hr).tail (.results _ _ _)
        · exact Updates.raise (Updates.single (.cursor _ _ s))
  | crcCalc sel =>
    refine command_updates h ?_
    split
    · exact Updates.raise .refl
    · split
      · exact Updates.raise .refl
      · exact Updates.single (.results _ _ s)
  | lzComp =>
    refine command_updates h ?_
    split
    · exact Updates.raise .refl
    · dsimp only
      split
      · exact Updates.raise (Updates.single (.dropTokens s))
      · exact Updates.single (.tokens (Nat.not_lt.mp ‹_›))
  | lzDecomp =>
    refine command_updates h (produceDst_updates .refl fun out hr => ?_)
    split at hr
    · cases hr
    · exact lzDecompress_fits hr
  | lzT2b =>
    refine command_updates h (produceDst_updates .refl fun out hr => ?_)
    split at hr
    · cases hr
    · split at hr <;> cases hr
      rw [tokensToBytes_length]
      exact Nat.not_lt.mp ‹_›
  | lzB2t =>
    refine command_updates h ?_
    split
    · exact Updates.raise .refl
    · split
      · exact Updates.raise (Updates.single (.dropTokens s))
      · split
        · exact Updates.raise (Updates.single (.dropTokens s))
        · exact Updates.single (.tokens (Nat.not_lt.mp ‹_›))
  | hufFreq =>
    refine command_updates h ?_
    split
    · exact Updates.raise .refl
    · exact Updates.single (.freq _ s)
  | hufBuild =>
    refine command_updates h ?_
    split
    · exact Updates.raise .refl
    · exact Updates.single (.tree s.freq s)
  | hufCodes =>
    refine command_updates h ?_
    split
    · exact Updates.raise .refl
    · exact Updates.single (.tcode _ s)
  | hufLens => exact command_updates h (Updates.single (.len _ s))
  | hufCanon =>
    refine command_updates h ?_
    split
    next hc => exact Updates.single (.code hc s)
    · exact Updates.raise .refl
  | hufEnc =>
    refine command_updates h ?_
    split
    · exact Updates.raise .refl
    · split
      next he => exact encodeSymbols_updates he
      · exact Updates.raise (Updates.single (.emptyWriter s))
  | hufDec =>
    refine command_updates h ?_
    split
    · exact Updates.raise (Updates.single (.dropOutput s))
    · split
      · exact Updates.raise (Updates.single (.dropOutput s))
      · exact produceDst_updates (.single (.cursor _ _ s))
          fun _ => decodedResult_fits (huffDecode_out_length_le _ _ _ _ _ _ _)
  | frmEncPlain => exact command_updates h (frameEncode_updates fun _ _ => encodeStream_fits)
  | frmEncHyb => exact command_updates h (frameEncode_updates fun _ _ => encodeHybrid_fits)
  | frmEncPar => exact command_updates h (frameEncode_updates fun _ _ => encodePar_fits)
  | frmEncStor =>
    refine command_updates h (frameEncode_updates fun data r hr => ?_)
    split at hr
    · cases hr
    next hf => cases hr; exact checkBytes_fits hf
  | frmDec =>
    refine command_updates h ?_
    split
    · exact Updates.raise (Updates.single (.dropOutput s))
    · refine produceDst_updates (.single (.results _ _ s)) fun out hr => ?_
      split at hr
      · cases hr
      · exact checkBytes_fits hr
  | frmSniff =>
    refine command_updates h ?_
    split
    · exact Updates.raise .refl
    · exact Updates.single (.results _ _ s)

/-! ### The moves of the port -/

theorem writeRegister_updates (n : Nat) (v : BitVec 64) (s : State) : Updates s (writeRegister n v s) := by
  unfold writeRegister
  split
  case h_10 => exact .refl
  all_goals exact .single (.parameters _ _ _ _ _ _ _ _ _ s)

theorem hostStore_updates (space index : Nat) (v : HostValue) (s : State) :
    Updates s (hostStore space index v s) := by
  unfold hostStore
  split
  · exact writeRegister_updates _ _ s
  · split
    · exact .single (.sourceByte _ ‹_›)
    · exact .refl
  · split
    · exact .single (.freq _ s)
    · exact .refl
  · split
    · exact .single (.len _ s)
    · exact .refl
  · split
    · exact .single (.token _ ‹_›)
    · exact .refl
  · exact .refl

theorem execute_updates {w : Word} {s t : State} (h : execute w s = .next t) : Updates s t := by
  rcases execute_cases w s with ⟨i, _, e⟩ | ⟨_, _, e⟩ <;> rw [e] at h
  · exact exec_updates h
  · exact command_updates h (Updates.raise .refl)

theorem hostWrite_updates {space index : Nat} {v : HostValue} {s t : State}
    (h : hostWrite space index v s = .next t) : Updates s t := by
  rcases hostWrite_cases space index v s with ⟨w, _, e⟩ | ⟨_, e⟩ <;> rw [e] at h
  · exact execute_updates h
  · cases h
    exact hostStore_updates space index v s

/-- Every step is a chain of elementary updates (20_memory.md R58). -/
theorem step_updates {s t : State} (h : step s = .next t) : Updates s t := by
  rcases step_cases h with ⟨_, rfl⟩ | ⟨rest, u, rfl, hm⟩
  · exact .refl
  refine (Updates.single (.take rest s)).trans ?_
  rcases hm with ⟨_, _, _, rfl⟩ | ⟨_, _, _, _, hw⟩ | ⟨_, rfl⟩
  · exact .single (.answer _ _)
  · exact hostWrite_updates hw
  · exact .single (.reset _)

end Sys2Proof.Proofs
end

/-! ## The invariants -/

section

namespace Sys2Proof.Proofs

open Sys2Proof.Machine Sys2Proof.Laws

/-! ### Buffers, token table and arena -/

theorem toNat_ofNat_le (w n : Nat) : (BitVec.ofNat w n).toNat ≤ n := by
  rw [BitVec.toNat_ofNat]
  exact Nat.mod_le _ _

/-- A number below the width's bound is stored as it is. -/
theorem toNat_ofNat_of_lt {w n : Nat} (h : n < 2 ^ w) : (BitVec.ofNat w n).toNat = n := by
  rw [BitVec.toNat_ofNat, Nat.mod_eq_of_lt h]

theorem memoryInv_resetWith {c : Config} (h : c.Valid) : MemoryInv (State.resetWith c) where
  capValid := h
  srcWf := rfl
  srcBelow := below_nil _
  dstWf := rfl
  dstBelow := below_nil _
  bswWf := rfl
  bswBelow := below_nil _
  tokWf := rfl
  tokBelow := below_nil _
  nodeWf := rfl
  nodeBelow := below_nil _
  nodeCntLe := Nat.zero_le _
  rootValid := .inl rfl
  dstLenLe := Nat.zero_le _
  wLenLe := Nat.zero_le _

theorem memoryInv_putDst {s : State} {out : List Byte} (h : MemoryInv s) (hout : out.length ≤ s.cap.bufCap) :
    MemoryInv (putDst out s) :=
  { h with
    dstWf := memory_wf_ofList out
    dstBelow := below_ofList out hout
    dstLenLe := (toNat_ofNat_le 64 out.length).trans hout }

theorem memoryInv_putTokens {s : State} {toks : List Token} (h : MemoryInv s)
    (htoks : toks.length ≤ s.cap.tokCap) : MemoryInv (putTokens toks s) :=
  { h with
    tokWf := rising_overwrite toks h.tokWf
    tokBelow := below_overwrite toks h.tokBelow htoks }

/-- Completing a byte stores it at `W_LEN` and makes `W_LEN` one more, which does not wrap below the capacity. -/
theorem memoryInv_completeByte {s : State} (acc : BitVec 8) (h : MemoryInv s) (hroom : s.wLen.toNat < s.cap.bufCap) :
    MemoryInv { s with bsw := Sparse.put s.bsw s.wLen.toNat acc, wLen := s.wLen + 1#64, wAcc := 0#8, wN := 0#3 } := by
  have hw : (s.wLen + 1#64).toNat = s.wLen.toNat + 1 := by
    obtain ⟨⟨_, hcap⟩, _⟩ := h.capValid
    exact BitVec.toNat_add_of_lt (show s.wLen.toNat + 1 < 2 ^ 64 by omega)
  exact
    { h with
      bswWf := memory_wf_put _ acc h.bswWf
      bswBelow := by
        show Sparse.Below (s.wLen + 1#64).toNat _
        rw [hw]
        exact below_put acc (below_mono h.bswBelow (Nat.le_succ _)) (Nat.lt_succ_self _)
      wLenLe := by
        show (s.wLen + 1#64).toNat ≤ _
        rw [hw]
        exact hroom }

/-- The tree of a frequency table fits the arena, and its root is one of its nodes (10_state.md R33, R41). -/
theorem memoryInv_tree {s : State} (f : Table (BitVec 64)) (h : MemoryInv s) :
    MemoryInv { s with node := Sparse.ofList (buildTree f).1, nodeCnt := BitVec.ofNat 10 (buildTree f).1.length,
                       root := rootIndex (buildTree f).2 } := by
  have hlen := buildTree_arena_length_le f
  have hcnt : (BitVec.ofNat 10 (buildTree f).1.length).toNat = (buildTree f).1.length :=
    toNat_ofNat_of_lt (Nat.lt_of_le_of_lt hlen (by decide))
  exact
    { h with
      nodeWf := rising_ofList _
      nodeBelow := below_ofList _ hlen
      nodeCntLe := hcnt.le.trans hlen
      rootValid := by
        cases hr : (buildTree f).2 with
        | none => exact .inl rfl
        | some i =>
          refine .inr ?_
          show (BitVec.ofNat 10 i).toNat < (BitVec.ofNat 10 (buildTree f).1.length).toNat
          rw [hcnt]
          exact Nat.lt_of_le_of_lt (toNat_ofNat_le 10 i) (buildTree_root_lt hr) }

/-- Every elementary update keeps the buffers, the token table and the arena canonical and in bounds. -/
theorem Update.keeps_memoryInv {s t : State} (hu : Update s t) (h : MemoryInv s) : MemoryInv t := by
  cases hu with
  | error | acknowledge | pendBit | attach | cursor | results | freq | len | tcode | code | parameters | answer
  | take => exact { h with }
  | reset => exact { memoryInv_resetWith h.capValid with }
  | swap hlen =>
    exact { h with
      srcWf := h.dstWf, srcBelow := h.dstBelow, dstWf := h.srcWf, dstBelow := h.srcBelow, dstLenLe := hlen }
  | emptyWriter => exact { h with bswWf := rfl, bswBelow := below_nil _, wLenLe := Nat.zero_le _ }
  | completeByte acc hroom => exact memoryInv_completeByte acc h hroom
  | tokens htoks => exact memoryInv_putTokens h htoks
  | dropTokens => exact { h with tokWf := rfl, tokBelow := below_nil _ }
  | output hout => exact memoryInv_putDst h hout
  | dropOutput => exact { h with dstWf := rfl, dstBelow := below_nil _, dstLenLe := Nat.zero_le _ }
  | tree f => exact memoryInv_tree f h
  | sourceByte v ha => exact { h with srcWf := memory_wf_put _ v h.srcWf, srcBelow := below_put v h.srcBelow ha }
  | token k hi => exact { h with tokWf := rising_put _ k h.tokWf, tokBelow := below_put k h.tokBelow hi }

/-- Settles O55: every step is a chain of elementary updates, and each of them keeps the invariant. -/
theorem stepKeepsMemoryInvariant : Obligations.StepKeepsMemoryInvariant :=
  fun _ _ hs h => (step_updates h).keep Update.keeps_memoryInv hs

/-! ### The writer, the reader and the error registers -/

/-- A bit added at stream position `W_N` leaves the bits below it 0 (10_state.md R30). -/
theorem accWith_low {s : State} (b : Bool) (h : s.wAcc.toNat % 2 ^ (8 - s.wN.toNat) = 0) :
    (accWith s b).toNat % 2 ^ (7 - s.wN.toNat) = 0 := by
  have hpow : 2 ^ (7 - s.wN.toNat) ∣ 2 ^ 8 := Nat.pow_dvd_pow 2 (by omega)
  have hacc : s.wAcc.toNat % 2 ^ (7 - s.wN.toNat) = 0 :=
    Nat.mod_eq_zero_of_dvd ((Nat.pow_dvd_pow 2 (by omega)).trans (Nat.dvd_of_mod_eq_zero h))
  have hbit : (BitVec.ofNat 8 b.toNat <<< (7 - s.wN.toNat)).toNat % 2 ^ (7 - s.wN.toNat) = 0 := by
    rw [BitVec.toNat_shiftLeft, Nat.shiftLeft_eq]
    exact Nat.mod_eq_zero_of_dvd ((Nat.dvd_mod_iff hpow).mpr (Nat.dvd_mul_left _ _))
  rw [accWith, BitVec.toNat_or, Nat.or_mod_two_pow, hacc, hbit]
  rfl

theorem writerInv_pendBit {s : State} (b : Bool) (h : WriterInv s) (hn : s.wN ≠ 7#3) :
    WriterInv { s with wAcc := accWith s b, wN := s.wN + 1#3 } where
  accLow := by
    have hlt : s.wN.toNat + 1 < 2 ^ 3 := by
      have : s.wN.toNat ≠ 7 := fun e => hn (BitVec.eq_of_toNat_eq e)
      have := s.wN.isLt
      omega
    show (accWith s b).toNat % 2 ^ (8 - (s.wN + 1#3).toNat) = 0
    rw [BitVec.toNat_add_of_lt hlt, show 8 - (s.wN.toNat + (1#3).toNat) = 7 - s.wN.toNat from Nat.succ_sub_succ _ _]
    exact accWith_low b h.accLow
  lenLe := h.lenLe

theorem Update.keeps_writerInv {s t : State} (hu : Update s t) (h : WriterInv s) : WriterInv t := by
  cases hu with
  | error | acknowledge | swap | attach | cursor | results | tokens | dropTokens | output | dropOutput | freq | len
  | tcode | code | tree | parameters | sourceByte | token | answer | take => exact { h with }
  | reset | emptyWriter => exact ⟨rfl, Nat.zero_le _⟩
  | completeByte acc hroom => exact ⟨rfl, by
      show (s.wLen + 1#64).toNat ≤ s.cap.bufCap
      rw [BitVec.toNat_add]
      exact (Nat.mod_le _ _).trans hroom⟩
  | pendBit b hn => exact writerInv_pendBit b h hn

/-- The reader is never attached to the selector 3 (10_state.md R31). -/
theorem Update.keeps_rSel {s t : State} (hu : Update s t) (h : s.rSel ≠ 3#2) : t.rSel ≠ 3#2 := by
  cases hu with
  | error | acknowledge | swap | emptyWriter | completeByte | pendBit | cursor | results | tokens | dropTokens
  | output | dropOutput | freq | len | tcode | code | tree | parameters | sourceByte | token | answer | take => exact h
  | reset => exact (by decide : (0#2 : BitVec 2) ≠ 3#2)
  | attach hsel =>
    intro e
    have := (toNat_ofNat_of_lt (hsel.trans (by decide))).symm.trans (congrArg BitVec.toNat e)
    exact hsel.ne this

theorem Update.keeps_errorInv {s t : State} (hu : Update s t) (h : ErrorInv s) : ErrorInv t := by
  cases hu with
  | swap | emptyWriter | completeByte | pendBit | attach | cursor | results | tokens | dropTokens | output | dropOutput
  | freq | len | tcode | code | tree | parameters | sourceByte | token | answer | take => exact { h with }
  | error w e =>
    exact ⟨(errorCode_bounds e.kind).2, fun h0 => absurd h0 (errorCode_ne_zero _),
      fun h0 => absurd h0 (errorCode_ne_zero _)⟩
  | acknowledge | reset => exact ⟨Nat.zero_le _, fun _ => rfl, fun _ => rfl⟩

/-- Settles O56: every elementary update keeps each of the three invariants, so every step does. -/
theorem stepKeepsRegisterInvariants : Obligations.StepKeepsRegisterInvariants :=
  fun _ _ h => ⟨(step_updates h).keep Update.keeps_writerInv, (step_updates h).keep Update.keeps_rSel,
    (step_updates h).keep Update.keeps_errorInv⟩

/-! ### Reset -/

/-- No two symbols of a table without codes clash (43_huffman.md R161). -/
theorem prefixFree_fill : PrefixFree (Table.fill ⟨0#8, 0⟩) :=
  fun a _ _ ha => absurd (congrArg CodeEntry.len (get_fill (⟨0#8, 0⟩ : CodeEntry) a)) ha

theorem codesFit_fill : CodesFit (Table.fill ⟨0#8, 0⟩) := fun a => by
  rw [get_fill]
  exact Nat.one_pos

/-- Settles O58. -/
theorem resetMeetsInvariants : Obligations.ResetMeetsInvariants := fun _ hc =>
  ⟨memoryInv_resetWith hc, ⟨rfl, Nat.zero_le _⟩, (by decide : (0#2 : BitVec 2) ≠ 3#2),
    ⟨Nat.zero_le _, fun _ => rfl, fun _ => rfl⟩, prefixFree_fill, codesFit_fill⟩

end Sys2Proof.Proofs
end

/-! ## What the table and output commands change -/

section

namespace Sys2Proof.Proofs

open Sys2Proof.Machine Sys2Proof.Laws

/-- Settles O54: however the pseudocode of one of these commands ends, it has written only what its rules name. -/
theorem tableAndOutputCommandsFrame : Obligations.TableAndOutputCommandsFrame := by
  intro s t
  simp only [List.mem_cons, List.not_mem_nil, or_false, forall_eq_or_imp, forall_eq]
  refine ⟨?bufSwap, ⟨?lzComp, ?lzB2t⟩, ⟨?lzDecomp, ?lzT2b⟩, ?hufFreq, ?hufBuild, ?hufCodes, ?hufLens, ?hufCanon,
    ?hufDec, ⟨?plain, ?hybrid, ?par⟩, ?stor, ?frmDec⟩ <;> revert t
  case bufSwap | hufFreq | hufBuild | hufCodes | hufCanon =>
    refine command_meets (by exact rfl) ?_
    split <;> exact rfl
  case hufLens => exact command_meets (by exact rfl) (by exact rfl)
  case lzComp =>
    refine command_meets (by exact rfl) ?_
    split
    · exact rfl
    · dsimp only
      split <;> exact rfl
  case lzB2t =>
    refine command_meets (by exact rfl) ?_
    split
    · exact rfl
    · split
      · exact rfl
      · split <;> exact rfl
  case lzDecomp | lzT2b => exact command_meets (by exact rfl) (meets_produceDst (fun _ _ => rfl) fun _ => rfl)
  case hufDec =>
    refine command_meets (by exact rfl) ?_
    split
    · exact rfl
    · split
      · exact rfl
      · exact meets_produceDst (fun _ _ => rfl) fun _ => rfl
  case plain | hybrid | par =>
    exact command_meets (by exact rfl) (meets_frameEncode (fun _ => rfl) (fun _ _ _ => rfl) fun _ => rfl)
  case stor =>
    refine command_meets (by exact rfl) (meets_frameEncode (fun _ => rfl) (fun _ _ hr => ?_) fun _ => rfl)
    split at hr <;> cases hr
    exact rfl
  case frmDec =>
    refine command_meets (by exact rfl) ?_
    split
    · exact rfl
    · exact meets_produceDst (fun _ _ => rfl) fun _ => rfl

end Sys2Proof.Proofs
end

/-! ## The registers at the host port -/

section

namespace Sys2Proof.Proofs

open Sys2Proof.Machine Sys2Proof.Laws

/-! ### Reads -/

/-- The length of the buffer the reader borrows, by `R_SEL` (10_state.md R31). -/
theorem readerLen_eq {s : State} (h : s.rSel ≠ 3#2) :
    readerLen s = ([s.srcLen, s.dstLen, s.wLen].getD s.rSel.toNat 0#64).toNat := by
  have hsel : ∀ x : BitVec 2, x ≠ 3#2 → x = 0#2 ∨ x = 1#2 ∨ x = 2#2 := by decide
  rcases hsel _ h with h | h | h <;> rw [readerLen, h] <;> rfl

/-- A flag that is the negation of `c`, at the bit of weight `k`. -/
theorem flag_bit (k : Nat) (c : Prop) [Decidable c] :
    BitVec.ofNat 64 (k * (!decide c).toNat) = if c then 0#64 else BitVec.ofNat 64 k := by
  split <;> simp [*]

/-- The view `STATUS` bit by bit (10_state.md R16). -/
theorem status_eq {s : State} (h : s.rSel ≠ 3#2) :
    status s = (if s.err = 0#8 then 0#64 else 1#64) + (if s.root = 0x3FF#10 then 0#64 else 2#64) +
      (if s.wN = 0#3 then 0#64 else 4#64) +
      (if ([s.srcLen, s.dstLen, s.wLen].getD s.rSel.toNat 0#64).toNat ≤ s.rByte.toNat then 8#64 else 0#64) := by
  rw [← readerLen_eq h, ← flag_bit 1, ← flag_bit 2, ← flag_bit 4, ← ite_not, ← flag_bit 8, Nat.one_mul,
    ← BitVec.ofNat_add, ← BitVec.ofNat_add, ← BitVec.ofNat_add]
  simp only [decide_not, Bool.not_not]
  rfl

/-- What the register numbers read, `CMD` first (10_state.md section 2). -/
def registerList (s : State) : List (BitVec 64) :=
  [0#64, status s, s.err.setWidth 64, s.errInfo, s.errCmd.setWidth 64, s.ctl.setWidth 64, s.arg0, s.res,
    s.window.setWidth 64, s.lookahead.setWidth 64, s.symCnt, s.origLen, s.chunkSz, s.srcLen, s.dstLen,
    s.crcr.setWidth 64, s.wLen, s.wAcc.setWidth 64, s.wN.setWidth 64, s.rSel.setWidth 64, s.rByte,
    s.rBit.setWidth 64, s.tokCnt, s.nodeCnt.setWidth 64, s.root.setWidth 64]

/-- A register reads as its entry of the list, an unassigned number as 0. -/
theorem readRegister_eq (n : Nat) (s : State) : readRegister n s = (registerList s).getD n 0#64 :=
  match n with
  | 0 | 1 | 2 | 3 | 4 | 5 | 6 | 7 | 8 | 9 | 10 | 11 | 12 | 13 | 14 | 15 | 16 | 17 | 18 | 19 | 20 | 21 | 22 | 23 | 24 =>
    rfl
  | _ + 25 => rfl

/-- Settles O7. -/
theorem registerReads : Obligations.RegisterReads := by
  intro s n h
  rw [hostRead, readRegister_eq, registerList, status_eq h]

/-! ### Writes -/

/-- The host's registers with their widths (10_state.md section 2). -/
def writableRegisters : List (Nat × Nat) :=
  [(0x05, 1), (0x06, 64), (0x08, 16), (0x09, 16), (0x0A, 64), (0x0B, 64), (0x0C, 64), (0x0D, 64), (0x16, 64)]

/-- The low `k` bits of a word, as a register of `k` bits reads them. -/
theorem lowBits_eq (v : BitVec 64) (k : Nat) :
    BitVec.ofNat 64 (v.toNat % 2 ^ k) = (v.setWidth k).setWidth 64 :=
  BitVec.eq_of_toNat_eq (by simp)

/-- A write to a writable register stores the low bits that fit; else only the view `STATUS` can read differently
(10_state.md R11). -/
theorem registerList_writeRegister {n k : Nat} (v : BitVec 64) (s : State) (h : (n, k) ∈ writableRegisters) :
    registerList (writeRegister n v s) =
      ((registerList s).set 0x01 (status (writeRegister n v s))).set n (BitVec.ofNat 64 (v.toNat % 2 ^ k)) := by
  simp only [writableRegisters, List.mem_cons, Prod.mk.injEq, List.not_mem_nil, or_false] at h
  rw [lowBits_eq]
  rcases h with ⟨rfl, rfl⟩ | ⟨rfl, rfl⟩ | ⟨rfl, rfl⟩ | ⟨rfl, rfl⟩ | ⟨rfl, rfl⟩ | ⟨rfl, rfl⟩ | ⟨rfl, rfl⟩ | ⟨rfl, rfl⟩ |
    ⟨rfl, rfl⟩ <;> simp [registerList, writeRegister]

theorem writableRegisters_lt {n k : Nat} (h : (n, k) ∈ writableRegisters) : 0x01 < n ∧ n < 25 := by
  have : ∀ p ∈ writableRegisters, 1 < p.1 ∧ p.1 < 25 := by decide
  exact this _ h

/-- A host write to `REG` at any other number than `CMD` is a write of that register (20_memory.md R56, R57). -/
theorem hostWrite_register {n : Nat} (v : BitVec 64) (s : State) (hn : n ≠ 0) :
    hostWrite 0 n (.word v) s = .next (writeRegister n v s) := by
  obtain ⟨n, rfl⟩ := Nat.exists_eq_succ_of_ne_zero hn
  rfl

/-- A write to a register changes nothing but the host's registers (10_state.md R11). -/
theorem writeRegister_frame (n : Nat) (v : BitVec 64) (s : State) :
    writeRegister n v s = { s with
      ctl := (writeRegister n v s).ctl, arg0 := (writeRegister n v s).arg0, window := (writeRegister n v s).window,
      lookahead := (writeRegister n v s).lookahead, symCnt := (writeRegister n v s).symCnt,
      origLen := (writeRegister n v s).origLen, chunkSz := (writeRegister n v s).chunkSz,
      srcLen := (writeRegister n v s).srcLen, tokCnt := (writeRegister n v s).tokCnt } := by
  unfold writeRegister
  split <;> rfl

/-- A write to a read-only or unassigned number is ignored (10_state.md R11). -/
theorem writeRegister_ignored {n : Nat} (v : BitVec 64) (s : State)
    (hn : n ∉ [0x05, 0x06, 0x08, 0x09, 0x0A, 0x0B, 0x0C, 0x0D, 0x16]) : writeRegister n v s = s := by
  simp only [List.mem_cons, List.not_mem_nil, or_false, not_or] at hn
  unfold writeRegister
  split <;> simp_all

/-- Settles O8. -/
theorem registerWrites : Obligations.RegisterWrites := by
  intro s v n hn
  refine ⟨fun k hk => ?_, fun hn' => ?_⟩
  · obtain ⟨h1, h25⟩ := writableRegisters_lt hk
    have hlist := registerList_writeRegister v s hk
    refine ⟨writeRegister n v s, hostWrite_register v s hn, ?_, fun m hmn hm => ?_, writeRegister_frame n v s⟩
    · rw [hostRead, readRegister_eq, hlist]
      simp [List.getD_eq_getElem?_getD, registerList, h25]
    · simp only [hostRead, readRegister_eq, hlist, List.getD_eq_getElem?_getD]
      rw [List.getElem?_set_ne hmn.symm, List.getElem?_set_ne hm.symm]
  · rw [hostWrite_register v s hn, writeRegister_ignored v s hn']

end Sys2Proof.Proofs
end

/-! ## Errors raised before a command starts -/

section

namespace Sys2Proof.Proofs

open Sys2Proof.Machine Sys2Proof.Laws Sys2Proof.Claims

/-- A command that raises an error whose detail fits 64 bits (60_exceptions.md R233). -/
theorem command_errored {w : Word} {s u : State} {k : ErrorKind} {info : Nat} {body : State → Ran} (hs : Ready s)
    (hinfo : info < 2 ^ 64) (hb : body s = .raised ⟨k, info⟩ u) :
    command w s body = .next (errored (errorCode k) (BitVec.ofNat 64 info) w u) := by
  rw [command_raised hs hb, takeError, errorInfo_of_lt _ hinfo]

/-- A command that raises `InvalidInput` of a register's content. -/
theorem command_invalidInput {w : Word} {s u : State} {v : BitVec 64} {body : State → Ran} (hs : Ready s)
    (hb : body s = .raised ⟨.invalidInput, v.toNat⟩ u) : command w s body = .next (errored 8#8 v w u) := by
  rw [command_errored hs v.isLt hb, BitVec.ofNat_toNat, BitVec.setWidth_eq]
  rfl

theorem frameEncode_sourceError {s : State} (enc : List Byte → Except CmdError Encoded)
    (h : s.cap.bufCap < s.srcLen.toNat) : frameEncode s enc = .raised ⟨.invalidInput, s.srcLen.toNat⟩ (failDst s) := by
  simp only [frameEncode, sourceBytes_error h, finishEncode]

theorem readerBlocked_of_src {s : State} (hsel : s.rSel = 0#2) (h : s.cap.bufCap < s.srcLen.toNat) :
    readerBlocked s = true := by
  simp [readerBlocked, hsel, h]

/-- Settles O12: the check of `SRC_LEN` is the first thing each of these commands does. -/
theorem sourceLengthBeyondCapacityRaises : Obligations.SourceLengthBeyondCapacityRaises := by
  intro s n hs hlen
  simp only [List.mem_cons, List.not_mem_nil, or_false, forall_eq_or_imp, forall_eq]
  have hsrc := sourceBytes_error hlen
  refine ⟨⟨?bufSwap, ?crcCalc, ?lzComp, ?lzB2t, ?hufFreq, ?hufEnc, ?frmSniff⟩, ⟨?plain, ?hybrid, ?par, ?stor, ?frmDec⟩,
    fun hsel => ⟨⟨?bsRbit, ?bsRbits⟩, ?hufDec⟩⟩
  case bufSwap => exact command_invalidInput hs (if_pos hlen)
  case crcCalc => exact command_invalidInput hs (if_pos ⟨rfl, hlen⟩)
  case lzComp | lzB2t | hufFreq | hufEnc | frmSniff => exact command_invalidInput hs (by simp only [hsrc])
  case frmDec => exact command_invalidInput hs (by simp only [hsrc]; rfl)
  case plain | hybrid | par | stor => exact command_invalidInput hs (frameEncode_sourceError _ hlen)
  case bsRbit | bsRbits => exact command_invalidInput hs (if_pos (readerBlocked_of_src hsel hlen))
  case hufDec =>
    refine command_invalidInput hs ?_
    simp only [hsel, readerBlocked_of_src hsel hlen, if_true]
    rfl

end Sys2Proof.Proofs
end

/-! ## Serialised tokens -/

section

namespace Sys2Proof.Proofs

open Sys2Proof.Machine Sys2Proof.Laws Sys2Proof.Claims

/-- Record `k` of the serialised tokens is that of token `k` (42_lz77.md R137). -/
theorem tokensToBytes_record {toks : List Token} {k : Nat} {t : Token} (h : toks[k]? = some t) :
    ((tokensToBytes toks).drop (5 * k)).take 5 = tokenBytes t := by
  induction toks generalizing k with
  | nil => cases h
  | cons u us ih =>
    have hcons : tokensToBytes (u :: us) = tokenBytes u ++ tokensToBytes us := rfl
    cases k with
    | zero =>
      cases h
      exact List.take_left' rfl
    | succ k =>
      rw [hcons, show 5 * (k + 1) = (tokenBytes u).length + 5 * k by rw [tokenBytes_length]; omega,
        ← List.drop_drop, List.drop_left]
      exact ih h

/-- Bytes that hold no record (42_lz77.md R139). -/
theorem length_lt_five {bytes : List Byte}
    (h : ∀ (a b c d e : Byte) (rest : List Byte), bytes = a :: b :: c :: d :: e :: rest → False) : bytes.length < 5 :=
  match bytes, h with
  | [], _ | [_], _ | [_, _], _ | [_, _, _], _ | [_, _, _, _], _ => by simp
  | a :: b :: c :: d :: e :: rest, h => absurd rfl (h a b c d e rest)

theorem parseTokens_length (bytes : List Byte) : (parseTokens bytes).length = bytes.length / 5 := by
  fun_induction parseTokens bytes with
  | case1 a b c d e rest ih => simp only [List.length_cons, ih]; omega
  | case2 bytes hshort => exact (Nat.div_eq_of_lt (length_lt_five hshort)).symm

/-- Token `k` is read from record `k` (42_lz77.md R139). -/
theorem parseTokens_getElem? {bytes : List Byte} {k : Nat} (h : k < bytes.length / 5) :
    (parseTokens bytes)[k]? = some
      ⟨fromBe16 (bytes.getD (5 * k) 0#8) (bytes.getD (5 * k + 1) 0#8),
        fromBe16 (bytes.getD (5 * k + 2) 0#8) (bytes.getD (5 * k + 3) 0#8), bytes.getD (5 * k + 4) 0#8⟩ := by
  fun_induction parseTokens bytes generalizing k with
  | case1 a b c d e rest ih =>
    cases k with
    | zero => rfl
    | succ k =>
      simp only [List.length_cons] at h
      exact ih (by omega)
  | case2 bytes hshort =>
    rw [Nat.div_eq_of_lt (length_lt_five hshort)] at h
    exact absurd h (Nat.not_lt_zero k)

theorem sourceBytes_length (s : State) : (bufferBytes s .src).length = s.srcLen.toNat := bufferBytes_length s .src

/-- A byte of `SRC` below `SRC_LEN`. -/
theorem sourceBytes_getD {s : State} {a : Nat} (v : Byte) (h : a < s.srcLen.toNat) :
    (bufferBytes s .src).getD a v = bufferByte s .src a := by
  simp [bufferBytes, bufferLen, List.getD_eq_getElem?_getD, h]

/-- `LZ.T2B` with the tokens and the records inside their capacities (42_lz77.md R138). -/
theorem lzT2b_done {s : State} (hs : Ready s) (htok : s.tokCnt.toNat ≤ s.cap.tokCap)
    (hbuf : 5 * s.tokCnt.toNat ≤ s.cap.bufCap) :
    exec .lzT2b s = .next (produced (tokensToBytes ((List.range s.tokCnt.toNat).map (tokenAt s))) s) := by
  refine command_done hs ?_
  simp only [tokenList_ok htok, List.length_map, List.length_range, if_neg (Nat.not_lt.mpr hbuf)]
  rfl

/-- `LZ.B2T` with whole records and the tokens inside the table (42_lz77.md R140). -/
theorem lzB2t_done {s : State} (hs : Ready s) (hsrc : s.srcLen.toNat ≤ s.cap.bufCap) (h5 : s.srcLen.toNat % 5 = 0)
    (htok : s.srcLen.toNat / 5 ≤ s.cap.tokCap) :
    exec .lzB2t s = .next (putTokens (parseTokens (bufferBytes s .src)) s) := by
  refine command_done hs ?_
  simp only [sourceBytes_ok hsrc, bytesToTokens, sourceBytes_length, h5, if_true, parseTokens_length,
    if_neg (Nat.not_lt.mpr htok)]

/-- The tokens that `LZ.B2T` stores, read from the bytes of `SRC` (42_lz77.md R139). -/
theorem get?_tok_putTokens_parse {s : State} {k : Nat} (h : k < s.srcLen.toNat / 5) :
    Sparse.get? (putTokens (parseTokens (bufferBytes s .src)) s).tok k = some
      ⟨bufferByte s .src (5 * k) ++ bufferByte s .src (5 * k + 1),
        bufferByte s .src (5 * k + 2) ++ bufferByte s .src (5 * k + 3), bufferByte s .src (5 * k + 4)⟩ := by
  have hk : k < (bufferBytes s .src).length / 5 := by rwa [sourceBytes_length]
  rw [putTokens_tok, get?_overwrite, parseTokens_length, if_pos hk, parseTokens_getElem? hk]
  simp (disch := omega) only [sourceBytes_getD]
  rfl

/-- An error of `LZ.B2T` whose detail is the number of whole records (42_lz77.md R139, R140). -/
theorem lzB2t_errored {s : State} {k : ErrorKind} (hs : Ready s) (hsrc : s.srcLen.toNat ≤ s.cap.bufCap)
    (hk : (s.srcLen.toNat % 5 ≠ 0 ∧ k = .corruptToken) ∨
      (s.srcLen.toNat % 5 = 0 ∧ s.cap.tokCap < s.srcLen.toNat / 5 ∧ k = .memoryError)) :
    exec .lzB2t s =
      .next (errored (errorCode k) (BitVec.ofNat 64 (s.srcLen.toNat / 5)) 0x33000000#32 (failTokens s)) := by
  refine command_errored hs ((Nat.div_le_self _ _).trans_lt s.srcLen.isLt) ?_
  rcases hk with ⟨h5, rfl⟩ | ⟨h5, htok, rfl⟩
  · simp only [sourceBytes_ok hsrc, bytesToTokens, sourceBytes_length, if_neg h5]
  · simp only [sourceBytes_ok hsrc, bytesToTokens, sourceBytes_length, h5, if_true, parseTokens_length, if_pos htok]

/-- Settles O28: the outcomes of the two commands, success and each error. -/
theorem tokenSerialisationCommands : Obligations.TokenSerialisationCommands := by
  refine ⟨?records, ?tokens, ?corrupt, ?tokenCount, ?outputSize, ?tableSize⟩
  case records =>
    intro s hs _ htok hbuf
    refine ⟨_, lzT2b_done hs htok hbuf, by simp, fun k hk => ?_⟩
    exact tokensToBytes_record (by simp [hk])
  case tokens =>
    intro s hs _ hsrc h5 htok
    have hcnt : (putTokens (parseTokens (bufferBytes s .src)) s).tokCnt.toNat = s.srcLen.toNat / 5 := by
      rw [putTokens_tokCnt, parseTokens_length, sourceBytes_length]
      exact toNat_ofNat_of_lt ((Nat.div_le_self _ _).trans_lt s.srcLen.isLt)
    refine ⟨_, lzB2t_done hs hsrc h5 htok, rfl, hcnt, fun k hk => ?_⟩
    exact get?_tok_putTokens_parse (hcnt ▸ hk)
  case corrupt =>
    intro s hs hsrc h5
    exact ⟨_, lzB2t_errored hs hsrc (.inl ⟨h5, rfl⟩), rfl⟩
  case tokenCount =>
    intro s hs htok
    refine command_invalidInput hs ?_
    simp only [tokenList_error htok]
    rfl
  case outputSize =>
    intro s hs hcap htok hbuf
    refine command_errored hs (k := .memoryError) (by omega) ?_
    simp only [tokenList_ok htok, List.length_map, List.length_range, if_pos hbuf]
    rfl
  case tableSize =>
    intro s hs hsrc h5 htok
    exact ⟨_, lzB2t_errored hs hsrc (.inr ⟨h5, htok, rfl⟩), rfl⟩

end Sys2Proof.Proofs
end

/-! ## Content at or beyond a length is never read -/

section

namespace Sys2Proof.Proofs

open Sys2Proof.Machine Sys2Proof.Laws

/-! ### What is read -/

/-- Two states that agree below the lengths differ in the content of the stores alone. -/
theorem sameBelow_exists_stores {s t : State} (h : SameBelow s t) :
    ∃ (src dst bsw : Memory) (tok : Sparse Token) (node : Sparse Node),
      t = { s with src := src, dst := dst, bsw := bsw, tok := tok, node := node } :=
  ⟨_, _, _, _, _, h.regs⟩

section
variable {s t : State}

theorem sameBelow_bufferLen (h : SameBelow s t) (b : Buffer) : bufferLen t b = bufferLen s b := by
  obtain ⟨_, _, _, _, _, rfl⟩ := sameBelow_exists_stores h
  cases b <;> rfl

/-- A byte below the length of its buffer is specified (20_memory.md R62). -/
theorem sameBelow_bufferByte (h : SameBelow s t) {b : Buffer} {a : Nat} (ha : a < bufferLen s b) :
    bufferByte t b a = bufferByte s b a := by
  have hcell : Sparse.get? (bufferCells t b) a = Sparse.get? (bufferCells s b) a := by
    cases b with
    | src => exact (h.src a ha).symm
    | dst => exact (h.dst a ha).symm
    | bsw => exact (h.bsw a ha).symm
  obtain ⟨_, _, _, _, _, rfl⟩ := sameBelow_exists_stores h
  simp only [bufferByte, hcell]

theorem sameBelow_bufferBytes (h : SameBelow s t) (b : Buffer) : bufferBytes t b = bufferBytes s b := by
  rw [bufferBytes, sameBelow_bufferLen h]
  exact List.map_congr_left fun a ha => sameBelow_bufferByte h (List.mem_range.mp ha)

theorem sameBelow_sourceBytes (h : SameBelow s t) : sourceBytes t = sourceBytes s := by
  have hbytes := sameBelow_bufferBytes h .src
  obtain ⟨_, _, _, _, _, rfl⟩ := sameBelow_exists_stores h
  simp only [sourceBytes, hbytes]

theorem sameBelow_tokenList (h : SameBelow s t) : tokenList t = tokenList s := by
  have hentries : (List.range s.tokCnt.toNat).map (tokenAt t) = (List.range s.tokCnt.toNat).map (tokenAt s) :=
    List.map_congr_left fun i hi => by
      have hi := h.tok i (List.mem_range.mp hi)
      obtain ⟨_, _, _, _, _, rfl⟩ := sameBelow_exists_stores h
      simp only [tokenAt, hi]
  obtain ⟨_, _, _, _, _, rfl⟩ := sameBelow_exists_stores h
  simp only [tokenList, hentries]

theorem sameBelow_arenaOf (h : SameBelow s t) : arenaOf t = arenaOf s := by
  have hcnt : t.nodeCnt = s.nodeCnt := by rw [h.regs]
  rw [arenaOf, hcnt]
  refine List.map_congr_left fun i hi => ?_
  have hi := h.node i (List.mem_range.mp hi)
  obtain ⟨_, _, _, _, _, rfl⟩ := sameBelow_exists_stores h
  simp only [nodeAt, hi]

theorem sameBelow_rSel (h : SameBelow s t) : t.rSel = s.rSel := by rw [h.regs]

theorem sameBelow_rByte (h : SameBelow s t) : t.rByte = s.rByte := by rw [h.regs]

theorem sameBelow_rBit (h : SameBelow s t) : t.rBit = s.rBit := by rw [h.regs]

theorem sameBelow_readerLen (h : SameBelow s t) : readerLen t = readerLen s := by
  simp only [readerLen, sameBelow_rSel h, sameBelow_bufferLen h]

/-- A byte below the length of the reader's buffer is specified (20_memory.md R62). -/
theorem sameBelow_readerByte (h : SameBelow s t) {a : Nat} (ha : a < readerLen s) :
    readerByte t a = readerByte s a := by
  unfold readerLen at ha
  simp only [readerByte, sameBelow_rSel h]
  split at ha
  next b hb => simpa only [hb] using sameBelow_bufferByte h ha
  next => exact absurd ha (Nat.not_lt_zero a)

theorem sameBelow_remainingBits (h : SameBelow s t) : remainingBits t = remainingBits s := by
  have hbytes : (List.range (readerLen s)).map (readerByte t) = (List.range (readerLen s)).map (readerByte s) :=
    List.map_congr_left fun a ha => sameBelow_readerByte h (List.mem_range.mp ha)
  have hlen := sameBelow_readerLen h
  obtain ⟨_, _, _, _, _, rfl⟩ := sameBelow_exists_stores h
  simp only [remainingBits, hlen, hbytes]

theorem sameBelow_readerBlocked (h : SameBelow s t) : readerBlocked t = readerBlocked s := by
  obtain ⟨_, _, _, _, _, rfl⟩ := sameBelow_exists_stores h
  rfl

end

/-! ### What is written -/

/-- Two results are the same error, or values that `R` relates. -/
inductive SameResult {α : Type} (R : α → α → Prop) : Except CmdError α → Except CmdError α → Prop
  | ok {a b : α} (h : R a b) : SameResult R (.ok a) (.ok b)
  | error (e : CmdError) : SameResult R (.error e) (.error e)

theorem sameResult_cases {α : Type} {R : α → α → Prop} {r r' : Except CmdError α} (h : SameResult R r r') :
    (∃ a b : α, r = .ok a ∧ r' = .ok b ∧ R a b) ∨ ∃ e : CmdError, r = .error e ∧ r' = .error e := by
  cases h with
  | ok h => exact .inl ⟨_, _, rfl, rfl, h⟩
  | error e => exact .inr ⟨e, rfl, rfl⟩

/-- Two runs of a command's pseudocode end alike, in states that agree below the lengths. -/
inductive SameRan : Ran → Ran → Prop
  | done {s t : State} (h : SameBelow s t) : SameRan (.done s) (.done t)
  | raised (e : CmdError) {s t : State} (h : SameBelow s t) : SameRan (.raised e s) (.raised e t)

section
variable {s t : State}

theorem sameBelow_takeError (w : Word) (e : CmdError) (h : SameBelow s t) :
    SameBelow (takeError w e s) (takeError w e t) := by
  obtain ⟨_, _, _, _, _, rfl⟩ := sameBelow_exists_stores h
  exact { h with regs := rfl }

/-- A command keeps the agreement below the lengths when its pseudocode does (60_exceptions.md R233, R236). -/
theorem sameBelow_command {w : Word} {body : State → Ran} {u v : State} (h : SameBelow s t)
    (hb : SameRan (body s) (body t)) (hu : command w s body = .next u) (hv : command w t body = .next v) :
    SameBelow u v := by
  have herr : t.err = s.err := by rw [h.regs]
  by_cases hs : Ready s
  · have ht : Ready t := herr.trans hs
    cases hbs : body s <;> cases hbt : body t <;> rw [hbs, hbt] at hb <;> cases hb
    next h' =>
      rw [command_done hs hbs] at hu
      rw [command_done ht hbt] at hv
      cases hu; cases hv
      exact h'
    next h' =>
      rw [command_raised hs hbs] at hu
      rw [command_raised ht hbt] at hv
      cases hu; cases hv
      exact sameBelow_takeError w _ h'
  · have ht : ¬ Ready t := fun ht => hs (herr.symm.trans ht)
    rw [command_pending w body hs] at hu
    rw [command_pending w body ht] at hv
    cases hu; cases hv
    exact h

theorem sameBelow_putDst (out : List Byte) (h : SameBelow s t) : SameBelow (putDst out s) (putDst out t) := by
  obtain ⟨_, _, _, _, _, rfl⟩ := sameBelow_exists_stores h
  exact { h with regs := rfl, dst := fun _ _ => rfl }

theorem sameBelow_failDst (h : SameBelow s t) : SameBelow (failDst s) (failDst t) := by
  obtain ⟨_, _, _, _, _, rfl⟩ := sameBelow_exists_stores h
  exact { h with regs := rfl, dst := fun _ _ => rfl }

theorem sameBelow_clearWriter (h : SameBelow s t) : SameBelow (clearWriter s) (clearWriter t) := by
  obtain ⟨_, _, _, _, _, rfl⟩ := sameBelow_exists_stores h
  exact { h with regs := rfl, bsw := fun _ _ => rfl }

theorem sameBelow_failTokens (h : SameBelow s t) : SameBelow (failTokens s) (failTokens t) := by
  obtain ⟨_, _, _, _, _, rfl⟩ := sameBelow_exists_stores h
  exact { h with regs := rfl, tok := fun _ _ => rfl }

theorem sameBelow_setCursor (byte : BitVec 64) (bit : BitVec 3) (h : SameBelow s t) :
    SameBelow (setCursor byte bit s) (setCursor byte bit t) := by
  obtain ⟨_, _, _, _, _, rfl⟩ := sameBelow_exists_stores h
  exact { h with regs := rfl }

theorem sameBelow_setRes (v : BitVec 64) (h : SameBelow s t) : SameBelow (setRes v s) (setRes v t) := by
  obtain ⟨_, _, _, _, _, rfl⟩ := sameBelow_exists_stores h
  exact { h with regs := rfl }

/-- The stored tokens are the same, and the new count covers no other entry (42_lz77.md R134). -/
theorem sameBelow_putTokens (toks : List Token) (h : SameBelow s t) :
    SameBelow (putTokens toks s) (putTokens toks t) := by
  obtain ⟨_, _, _, _, _, rfl⟩ := sameBelow_exists_stores h
  refine { h with regs := rfl, tok := fun i hi => ?_ }
  have hi : i < toks.length := Nat.lt_of_lt_of_le hi (toNat_ofNat_le 64 toks.length)
  simp only [putTokens, get?_overwrite, if_pos hi]

theorem sameRan_produceDst {r : Except CmdError (List Byte)} (h : SameBelow s t) :
    SameRan (produceDst s r) (produceDst t r) := by
  cases r with
  | ok out => exact .done (sameBelow_putDst out h)
  | error e => exact .raised e (sameBelow_failDst h)

/-- A frame encoder reads `SRC` and registers only (44_frame.md R181 to R186). -/
theorem sameRan_frameEncode {enc : List Byte → Except CmdError Encoded} (h : SameBelow s t) :
    SameRan (frameEncode s enc) (frameEncode t enc) := by
  have hsrc := sameBelow_sourceBytes h
  have hfail := sameBelow_failDst h
  have hput := fun frame => sameBelow_putDst frame h
  obtain ⟨_, _, _, _, _, rfl⟩ := sameBelow_exists_stores h
  simp only [frameEncode, hsrc, finishEncode]
  split
  next r _ => exact .done { hput r.frame with regs := rfl }
  next e _ => exact .raised e hfail

/-! ### The writer and the reader -/

/-- The byte the writer completes lies below the new length in both states (40_bitstream.md R100). -/
theorem sameResult_appendByte (acc : BitVec 8) (h : SameBelow s t) :
    SameResult SameBelow (appendByteToWriter acc s) (appendByteToWriter acc t) := by
  obtain ⟨_, _, _, _, _, rfl⟩ := sameBelow_exists_stores h
  unfold appendByteToWriter
  split
  · exact .error _
  · refine .ok { h with regs := rfl, bsw := fun a ha => ?_ }
    by_cases hlast : a = s.wLen.toNat
    · rw [hlast, get?_put_eq, get?_put_eq]
    · have ha : a < (s.wLen.toNat + 1) % 2 ^ 64 := by simpa [BitVec.toNat_add] using ha
      rw [get?_put_ne _ _ hlast, get?_put_ne _ _ hlast]
      exact h.bsw a (by omega)

theorem sameResult_writeBit (b : Bool) (h : SameBelow s t) :
    SameResult SameBelow (writeBit s b) (writeBit t b) := by
  have hfull := sameResult_appendByte (accWith s b) h
  obtain ⟨_, _, _, _, _, rfl⟩ := sameBelow_exists_stores h
  unfold writeBit
  split
  · exact hfull
  · exact .ok { h with regs := rfl }

theorem sameResult_writeBits (bs : List Bool) (h : SameBelow s t) :
    SameResult SameBelow (writeBits s bs) (writeBits t bs) := by
  induction bs generalizing s t with
  | nil => exact .ok h
  | cons b bs ih =>
    obtain ⟨u, v, hu, hv, huv⟩ | ⟨e, hu, hv⟩ := sameResult_cases (sameResult_writeBit b h) <;>
      simp only [writeBits, hu, hv]
    · exact ih huv
    · exact .error e

theorem sameResult_flushWriter (h : SameBelow s t) : SameResult SameBelow (flushWriter s) (flushWriter t) := by
  have hfull := sameResult_appendByte s.wAcc h
  obtain ⟨_, _, _, _, _, rfl⟩ := sameBelow_exists_stores h
  unfold flushWriter
  split
  · exact .ok h
  · exact hfull

theorem sameResult_encodeSymbols (xs : List Byte) (i : Nat) (h : SameBelow s t) :
    SameResult SameBelow (encodeSymbols s i xs) (encodeSymbols t i xs) := by
  induction xs generalizing s t i with
  | nil => exact .ok h
  | cons x xs ih =>
    have hcode : t.code = s.code := by rw [h.regs]
    simp only [encodeSymbols, hcode]
    split
    · exact .error _
    · have hr := sameResult_writeBits (codeBits (s.code.get x)) h
      obtain ⟨u, v, hu, hv, huv⟩ | ⟨e, hu, hv⟩ := sameResult_cases hr <;> simp only [hu, hv]
      · exact ih (i + 1) huv
      · exact .error e

theorem sameRan_writerCommand {r r' : Except CmdError State} (h : SameBelow s t) (hr : SameResult SameBelow r r') :
    SameRan (writerCommand s r) (writerCommand t r') := by
  cases hr with
  | ok h' => exact .done h'
  | error e => exact .raised e h

theorem sameBelow_advanceCursor (h : SameBelow s t) : SameBelow (advanceCursor s) (advanceCursor t) := by
  unfold advanceCursor
  rw [sameBelow_rBit h, sameBelow_rByte h]
  split <;> exact sameBelow_setCursor _ _ h

theorem sameBelow_cursorAtEnd (h : SameBelow s t) : SameBelow (cursorAtEnd s) (cursorAtEnd t) := by
  rw [cursorAtEnd, cursorAtEnd, sameBelow_readerLen h]
  exact sameBelow_setCursor _ _ h

theorem sameBelow_skipBits (n : Nat) (h : SameBelow s t) : SameBelow (skipBits n s) (skipBits n t) := by
  rw [skipBits, skipBits, sameBelow_rBit h, sameBelow_rByte h]
  exact sameBelow_setCursor _ _ h

/-- The same value is read, and the states after it agree below the lengths. -/
inductive SameRead {α : Type} : α × State → α × State → Prop
  | mk (a : α) {s t : State} (h : SameBelow s t) : SameRead (a, s) (a, t)

/-- A bit is read only inside the reader's buffer (40_bitstream.md R105). -/
theorem sameResult_readBit (h : SameBelow s t) : SameResult SameRead (readBit s) (readBit t) := by
  simp only [readBit, sameBelow_readerLen h, sameBelow_rBit h, sameBelow_rByte h]
  split
  · exact .error _
  next hin =>
    rw [sameBelow_readerByte h (Nat.not_le.mp hin)]
    exact .ok ⟨_, sameBelow_advanceCursor h⟩

theorem sameResult_readBits (n v : Nat) (h : SameBelow s t) :
    SameResult SameRead (readBits n v s) (readBits n v t) := by
  induction n generalizing s t v with
  | zero => exact .ok ⟨v, h⟩
  | succ n ih =>
    obtain ⟨_, _, hp, hq, ⟨b, hu⟩⟩ | ⟨e, hp, hq⟩ := sameResult_cases (sameResult_readBit h) <;>
      simp only [readBits, hp, hq]
    · exact ih _ hu
    · exact .error e

end

/-! ### The commands -/

/-- Every command reads the stores below the lengths only, and what it writes there is the same in both states. -/
theorem sameBelow_exec {i : Instr} {s s' t t' : State} (h : SameBelow s s') (ht : exec i s = .next t)
    (ht' : exec i s' = .next t') : SameBelow t t' := by
  obtain ⟨_, _, _, _, _, rfl⟩ := sameBelow_exists_stores h
  cases i with
  | sysNop => exact sameBelow_command h (.done h) ht ht'
  | sysClrerr => cases ht; cases ht'; exact { h with regs := rfl }
  | sysReset =>
    cases ht; cases ht'
    exact ⟨rfl, fun _ _ => rfl, fun _ _ => rfl, fun _ _ => rfl, fun _ _ => rfl, fun _ _ => rfl⟩
  | bufSwap =>
    refine sameBelow_command h ?_ ht ht'
    dsimp only
    split
    · exact .raised _ h
    · exact .done { h with regs := rfl, src := h.dst, dst := h.src }
  | bsWinit => exact sameBelow_command h (by exact .done (sameBelow_clearWriter h)) ht ht'
  | bsWbit b => exact sameBelow_command h (sameRan_writerCommand h (sameResult_writeBit _ h)) ht ht'
  | bsWbits n =>
    refine sameBelow_command h ?_ ht ht'
    dsimp only
    split
    · exact .raised _ h
    · exact sameRan_writerCommand h (sameResult_writeBits _ h)
  | bsFlush => exact sameBelow_command h (sameRan_writerCommand h (sameResult_flushWriter h)) ht ht'
  | bsRinit sel =>
    refine sameBelow_command h ?_ ht ht'
    dsimp only
    split
    · exact .done { h with regs := rfl }
    · exact .raised _ h
  | bsRbit =>
    refine sameBelow_command h ?_ ht ht'
    simp only [sameBelow_readerBlocked h]
    split
    · exact .raised _ h
    · obtain ⟨_, _, hp, hq, ⟨b, hu⟩⟩ | ⟨e, hp, hq⟩ := sameResult_cases (sameResult_readBit h) <;> simp only [hp, hq]
      · exact .done (sameBelow_setRes _ hu)
      · exact .raised e h
  | bsRbits n =>
    refine sameBelow_command h ?_ ht ht'
    simp only [sameBelow_readerBlocked h]
    split
    · exact .raised _ h
    · split
      · exact .raised _ h
      · obtain ⟨_, _, hp, hq, ⟨v, hu⟩⟩ | ⟨e, hp, hq⟩ := sameResult_cases (sameResult_readBits n 0 h) <;>
          simp only [hp, hq]
        · exact .done (sameBelow_setRes _ hu)
        · exact .raised e (sameBelow_cursorAtEnd h)
  | crcCalc sel =>
    refine sameBelow_command h ?_ ht ht'
    dsimp only
    split
    · exact .raised _ h
    next b _ =>
      rw [sameBelow_bufferBytes h]
      split
      · exact .raised _ h
      · exact .done { h with regs := rfl }
  | lzComp =>
    refine sameBelow_command h ?_ ht ht'
    simp only [sameBelow_sourceBytes h]
    split
    · exact .raised _ h
    · split
      · exact .raised _ (sameBelow_failTokens h)
      · exact .done (sameBelow_putTokens _ h)
  | lzDecomp | lzT2b =>
    refine sameBelow_command h ?_ ht ht'
    simp only [sameBelow_tokenList h]
    exact sameRan_produceDst h
  | lzB2t =>
    refine sameBelow_command h ?_ ht ht'
    simp only [sameBelow_sourceBytes h]
    split
    · exact .raised _ h
    · split
      · exact .raised _ (sameBelow_failTokens h)
      · split
        · exact .raised _ (sameBelow_failTokens h)
        · exact .done (sameBelow_putTokens _ h)
  | hufFreq =>
    refine sameBelow_command h ?_ ht ht'
    simp only [sameBelow_sourceBytes h]
    split
    · exact .raised _ h
    · exact .done { h with regs := rfl }
  | hufBuild =>
    refine sameBelow_command h ?_ ht ht'
    dsimp only
    split
    · exact .raised _ h
    · exact .done { h with regs := rfl, node := fun _ _ => rfl }
  | hufCodes =>
    refine sameBelow_command h ?_ ht ht'
    dsimp only
    rw [sameBelow_arenaOf h]
    split
    · exact .raised _ h
    · exact .done { h with regs := rfl }
  | hufLens => exact sameBelow_command h (by exact .done { h with regs := rfl }) ht ht'
  | hufCanon =>
    refine sameBelow_command h ?_ ht ht'
    dsimp only
    split
    · exact .done { h with regs := rfl }
    · exact .raised _ h
  | hufEnc =>
    refine sameBelow_command h ?_ ht ht'
    simp only [sameBelow_sourceBytes h]
    split
    · exact .raised _ h
    next data _ =>
      obtain ⟨u, v, hu, hv, huv⟩ | ⟨e, hu, hv⟩ := sameResult_cases (sameResult_encodeSymbols data 0 h) <;>
        simp only [hu, hv]
      · exact .done huv
      · exact .raised e (sameBelow_clearWriter h)
  | hufDec =>
    refine sameBelow_command h ?_ ht ht'
    simp only [sameBelow_readerBlocked h, sameBelow_remainingBits h]
    split
    · exact .raised _ (sameBelow_failDst h)
    · split
      · exact .raised _ (sameBelow_failDst h)
      · exact sameRan_produceDst (sameBelow_skipBits _ h)
  | frmEncPlain | frmEncHyb | frmEncPar | frmEncStor => exact sameBelow_command h (sameRan_frameEncode h) ht ht'
  | frmDec =>
    refine sameBelow_command h ?_ ht ht'
    simp only [sameBelow_sourceBytes h]
    split
    · exact .raised _ (sameBelow_failDst h)
    · exact sameRan_produceDst { h with regs := rfl }
  | frmSniff =>
    refine sameBelow_command h ?_ ht ht'
    simp only [sameBelow_sourceBytes h]
    split
    · exact .raised _ h
    · exact .done (sameBelow_setRes _ h)

/-- Settles O59. -/
theorem unspecifiedContentIsNeverRead : Obligations.UnspecifiedContentIsNeverRead :=
  fun _ _ _ _ _ => sameBelow_exec

end Sys2Proof.Proofs
end

/-! ## The moves of the port and the address spaces -/

section

namespace Sys2Proof.Proofs

open Sys2Proof.Machine Sys2Proof.Laws

/-! ### Steps -/

/-- A step accepts the next move (20_memory.md R58). -/
theorem step_of_move {s : State} {m : Input} {rest : List Input} (h : s.inputs = m :: rest) :
    step s = accept m (takeInput rest s) := by
  simp only [step, stepInput, h]

theorem execute_of_decode {w : Word} {i : Instr} (s : State) (h : decode w = .ok i) : execute w s = exec i s := by
  simp only [execute, h]

theorem commandWord_eq_none {space index : Nat} (v : HostValue) (h : ¬ (space = 0 ∧ index = 0)) :
    commandWord space index v = none := by
  unfold commandWord
  split
  · exact absurd ⟨rfl, rfl⟩ h
  · rfl

/-- A host write to any other location than `CMD` is a store (20_memory.md R56). -/
theorem hostWrite_of_not_cmd {space index : Nat} (v : HostValue) (s : State) (h : ¬ (space = 0 ∧ index = 0)) :
    hostWrite space index v s = .next (hostStore space index v s) := by
  simp only [hostWrite, commandWord_eq_none v h]

/-- Settles O4: the step accepts the move, which for `CMD` is to execute the word (20_memory.md R57). -/
theorem stepRunsDecodedCommand : Obligations.StepRunsDecodedCommand := fun _ _ _ h =>
  ⟨step_of_move h, fun _ hi => (step_of_move h).trans (execute_of_decode _ hi)⟩

/-- Settles O5. -/
theorem stepOfOtherMoves : Obligations.StepOfOtherMoves := by
  refine ⟨fun s h => ?idle, fun _ _ _ _ h => step_of_move h, fun _ _ _ _ v h hcmd => ?write,
    fun _ _ h => step_of_move h⟩
  case idle => simp only [step, stepInput, h]
  case write => exact (step_of_move h).trans (hostWrite_of_not_cmd v _ hcmd)

/-! ### Writes to the spaces -/

/-- Entry `x` of a table after the host set entry `i` (20_memory.md R56). -/
theorem get_put_ofNat {α : Type} (t : Table α) (x : Byte) {i : Nat} (v : α) (hi : i < 256) :
    (t.put (BitVec.ofNat 8 i) v).get x = if x.toNat = i then v else t.get x := by
  have hx : BitVec.ofNat 8 i = x ↔ x.toNat = i := by
    rw [← BitVec.toNat_inj, toNat_ofNat_of_lt hi, eq_comm]
  rw [get_put]
  exact if_congr hx rfl rfl

/-- A host write outside the writable spaces or outside a space is ignored (20_memory.md R56, R61). -/
theorem hostStore_ignored {space i : Nat} (v : HostValue) (s : State) (h0 : space ≠ 0)
    (hsrc : space = 1 → s.cap.bufCap ≤ i) (hfreq : space = 4 → 256 ≤ i) (hlen : space = 5 → 256 ≤ i)
    (htok : space = 9 → s.cap.tokCap ≤ i) : hostStore space i v s = s := by
  unfold hostStore
  split
  · exact absurd rfl h0
  · exact if_neg (Nat.not_lt.mpr (hsrc rfl))
  · exact if_neg (Nat.not_lt.mpr (hfreq rfl))
  · exact if_neg (Nat.not_lt.mpr (hlen rfl))
  · exact if_neg (Nat.not_lt.mpr (htok rfl))
  · rfl

/-! ### Reads of the spaces -/

theorem readBuffer_outside (b : Buffer) {a : Nat} {s : State} (h : s.cap.bufCap ≤ a) : readBuffer b a s = 0#64 :=
  if_pos h

/-- A byte below the length of its buffer reads as what is stored (20_memory.md R55). -/
theorem readBuffer_of_get? {b : Buffer} {a : Nat} {s : State} {x : Byte} (hcap : a < s.cap.bufCap)
    (hlen : a < bufferLen s b) (hx : Sparse.get? (bufferCells s b) a = some x) :
    readBuffer b a s = x.setWidth 64 := by
  rw [readBuffer, if_neg (Nat.not_le.mpr hcap), if_pos hlen, bufferByte, hx, Option.getD_some]

theorem readTable_outside {α : Type} (t : Table α) {i : Nat} (f : α → HostValue) (h : 256 ≤ i) :
    readTable t i f = .word 0#64 :=
  if_neg (Nat.not_lt.mpr h)

theorem readTable_toNat {α : Type} (t : Table α) (x : Byte) (f : α → HostValue) :
    readTable t x.toNat f = f (t.get x) := by
  rw [readTable, if_pos x.isLt, BitVec.ofNat_toNat, BitVec.setWidth_eq]

theorem hostRead_node_of_get? {i : Nat} {s : State} {n : Node} (hcap : i < Config.nodeCap) (hcnt : i < s.nodeCnt.toNat)
    (hn : Sparse.get? s.node i = some n) : hostRead 8 i s = .node n := by
  simp only [hostRead, if_neg (Nat.not_le.mpr hcap), if_pos hcnt, nodeAt, hn, Option.getD_some]

theorem hostRead_token_of_get? {i : Nat} {s : State} {k : Token} (hcap : i < s.cap.tokCap) (hcnt : i < s.tokCnt.toNat)
    (hk : Sparse.get? s.tok i = some k) : hostRead 9 i s = .token k := by
  simp only [hostRead, if_neg (Nat.not_le.mpr hcap), if_pos hcnt, tokenAt, hk, Option.getD_some]

/-- A host read outside the spaces or outside a space returns 0 (20_memory.md R61). -/
theorem hostRead_outside {space i : Nat} {s : State} (h : 9 < space ∨ (1 ≤ space ∧
    [s.cap.bufCap, s.cap.bufCap, s.cap.bufCap, 256, 256, 256, 256, 511, s.cap.tokCap].getD (space - 1) 0 ≤ i)) :
    hostRead space i s = .word 0#64 := by
  match space, h with
  | 0, h => omega
  | 1, .inr ⟨_, h⟩ => exact congrArg _ (readBuffer_outside .src h)
  | 2, .inr ⟨_, h⟩ => exact congrArg _ (readBuffer_outside .dst h)
  | 3, .inr ⟨_, h⟩ => exact congrArg _ (readBuffer_outside .bsw h)
  | 4, .inr ⟨_, h⟩ | 6, .inr ⟨_, h⟩ | 7, .inr ⟨_, h⟩ => exact readTable_outside _ _ h
  | 5, .inr ⟨_, h⟩ => exact readTable_outside s.len (fun v => .word (v.setWidth 64)) h
  | 8, .inr ⟨_, h⟩ => exact if_pos h
  | 9, .inr ⟨_, h⟩ => exact if_pos h
  | _ + 10, _ => rfl

/-- Settles O9. -/
theorem spaceWrites : Obligations.SpaceWrites := by
  refine ⟨fun s i v hi => ?source, fun s i v hi => ?frequency, fun s i v hi => ?length, fun s i k hi => ?token,
    fun s space i v h0 h => ?ignored, fun s space i h => hostRead_outside h,
    fun s a b ha => ⟨fun hlen hb => congrArg _ (readBuffer_of_get? (b := .src) ha hlen hb),
      fun hlen hb => congrArg _ (readBuffer_of_get? (b := .dst) ha hlen hb),
      fun hlen hb => congrArg _ (readBuffer_of_get? (b := .bsw) ha hlen hb)⟩,
    fun s x => ⟨readTable_toNat _ x _, readTable_toNat s.len x fun v => .word (v.setWidth 64),
      readTable_toNat _ x _, readTable_toNat _ x _⟩,
    fun s i n => hostRead_node_of_get?, fun s i k => hostRead_token_of_get?⟩
  case frequency | length =>
    exact ⟨_, congrArg Host.Outcome.next (if_pos hi), rfl, fun x => get_put_ofNat _ x _ hi⟩
  case source | token =>
    exact ⟨_, congrArg Host.Outcome.next (if_pos hi), rfl, get?_put_eq _ _ _, fun a ha => get?_put_ne _ _ ha⟩
  case ignored =>
    rw [hostWrite_of_not_cmd v s fun hcmd => h0 hcmd.1]
    refine congrArg _ (hostStore_ignored v s h0 ?_ ?_ ?_ ?_) <;> rintro rfl <;> simpa using h

end Sys2Proof.Proofs
end

/-! ## Command words -/

section

namespace Sys2Proof.Proofs

open Sys2Proof.Machine Sys2Proof.Laws Sys2Proof.Claims

/-! ### Operands -/

/-- How many low bits of `imm` an opcode leaves to its operand or variant (30_encoding.md R72). -/
def operandBits (op : BitVec 8) : Nat :=
  if op = 0x11#8 then 1
  else if op = 0x12#8 ∨ op = 0x16#8 then 7
  else if op = 0x14#8 ∨ op = 0x20#8 ∨ op = 0x50#8 then 2
  else 0

theorem operandBits_le (op : BitVec 8) : operandBits op ≤ 7 := by
  unfold operandBits
  split_ifs <;> decide

/-- The must-be-zero bits are those above the operand (30_encoding.md R72). -/
theorem and_reservedImm_eq_zero (op imm : BitVec 8) :
    imm &&& reservedImm op = 0#8 ↔ imm.toNat < 2 ^ operandBits op := by
  have hmask : ∀ k ∈ [0, 1, 2, 7], ∀ x : BitVec 8, x &&& (0xFF#8 <<< k) = 0#8 ↔ x.toNat < 2 ^ k := by decide
  unfold reservedImm operandBits
  split_ifs
  · exact hmask 1 (by decide) imm
  · exact hmask 7 (by decide) imm
  · exact hmask 2 (by decide) imm
  · exact hmask 0 (by decide) imm

/-- The immediate of a well-formed command fits the bits its opcode leaves to it (30_encoding.md R72). -/
theorem immediate_lt {i : Instr} (h : i.wf = true) : immediate i < 2 ^ operandBits (opcode i) := by
  cases i with
  | bsWbit | bsWbits | bsRbits | bsRinit | crcCalc => exact of_decide_eq_true h
  | _ => decide

/-! ### The decoder against the encoder -/

/-- The fields of the word of any well-formed command (30_encoding.md R70 to R72). -/
theorem encode_fields (i : Instr) : EncodeFields.Statement i := fun h =>
  word_fields _ _ ((immediate_lt h).trans ((Nat.pow_le_pow_right (by decide) (operandBits_le _)).trans_lt (by decide)))

theorem noOperand_ok {i j : Instr} {imm : Nat} : noOperand i imm = .ok j ↔ imm = 0 ∧ i = j := by
  unfold noOperand
  split <;> simp [*]

theorem withOperand_ok {bits imm : Nat} {f : Nat → Instr} {j : Instr} :
    withOperand bits f imm = .ok j ↔ imm < 2 ^ bits ∧ f imm = j := by
  unfold withOperand
  split <;> simp [*]

/-- The opcode map takes the opcode and the immediate of a well-formed command to that command
(30_encoding.md R71, R72). -/
theorem decodeOp_of_wf {i : Instr} (h : i.wf = true) : decodeOp (opcode i).toNat (immediate i) = .ok i := by
  cases i with
  | bsWbit | bsWbits | bsRbits | bsRinit | crcCalc => exact withOperand_ok.mpr ⟨of_decide_eq_true h, rfl⟩
  | _ => rfl

/-- What the opcode map answers is well formed and has the opcode and the immediate given
(30_encoding.md R71, R72). -/
theorem decodeOp_ok {op imm : Nat} {i : Instr} (h : decodeOp op imm = .ok i) :
    i.wf = true ∧ (opcode i).toNat = op ∧ immediate i = imm := by
  unfold decodeOp at h
  -- the row of `FRM.ENC.*`, the unassigned opcodes, the rows with an operand, and those without one
  split at h
  case h_24 =>
    unfold frameVariant at h
    split at h <;> cases h <;> exact ⟨rfl, rfl, rfl⟩
  case h_27 => cases h
  case h_6 | h_7 | h_9 | h_11 | h_12 =>
    obtain ⟨himm, rfl⟩ := withOperand_ok.mp h
    exact ⟨decide_eq_true himm, rfl, rfl⟩
  all_goals
    obtain ⟨rfl, rfl⟩ := noOperand_ok.mp h
    exact ⟨rfl, rfl, rfl⟩

/-- A word is its three fields (30_encoding.md R70). -/
theorem word_eq_fields (w : Word) : opField w ++ zField w ++ immField w = w := by
  refine BitVec.eq_of_getLsbD_eq fun k hk => ?_
  simp only [opField, zField, immField, BitVec.getLsbD_append, BitVec.getLsbD_extractLsb']
  split
  · simp [*]
  · split
    · simp [*, show 8 + (k - 8) = k by omega]
    · simp [show k - 8 - 16 < 8 by omega, show 24 + (k - 8 - 16) = k by omega]

/-- With a zero field `z` a word decodes by the opcode map (30_encoding.md R70, R71). -/
theorem decode_of_zField {w : Word} (h : zField w = 0#16) :
    decode w = decodeOp (opField w).toNat (immField w).toNat := if_pos h

theorem decode_encode {i : Instr} (h : i.wf = true) : decode (encode i) = .ok i := by
  obtain ⟨hop, hz, himm⟩ := encode_fields i h
  rw [decode_of_zField hz, hop, himm, decodeOp_of_wf h]

theorem encode_of_decode {w : Word} {i : Instr} (h : decode w = .ok i) : i.wf = true ∧ encode i = w := by
  by_cases hz : zField w = 0#16
  · obtain ⟨hwf, hop, himm⟩ := decodeOp_ok ((decode_of_zField hz).symm.trans h)
    refine ⟨hwf, ?_⟩
    rw [encode, BitVec.eq_of_toNat_eq hop, himm, BitVec.ofNat_toNat, BitVec.setWidth_eq, ← hz, word_eq_fields]
  · cases (if_neg hz).symm.trans h

/-- Settles O1. -/
theorem decodeAndEncodeAgree : Obligations.DecodeAndEncodeAgree :=
  ⟨fun _ => decode_encode, fun _ _ => encode_of_decode⟩

/-- Settles O2: each word is the encoding of its command. -/
theorem specWordsDecode : Obligations.SpecWordsDecode :=
  ⟨decode_encode (i := .bufSwap) rfl, decode_encode (i := .bsWbit 1) rfl, decode_encode (i := .bsWbits 9) rfl,
    decode_encode (i := .bsRinit 2) rfl, decode_encode (i := .bsRbits 65) rfl, decode_encode (i := .crcCalc 3) rfl,
    decode_encode (i := .lzB2t) rfl, decode_encode (i := .hufDec) rfl, decode_encode (i := .frmEncPar) rfl,
    decode_encode (i := .frmSniff) rfl⟩

/-! ### Illegal words -/

/-- The opcode map answers a command for every assigned opcode with no bit above its operand set
(30_encoding.md R71, R72). -/
theorem decodeOp_isOk : ∀ op ∈ assignedOpcodes, ∀ imm < 2 ^ operandBits op, (decodeOp op.toNat imm).isOk = true := by
  decide +kernel

theorem opcode_mem_assigned (i : Instr) : opcode i ∈ assignedOpcodes := by
  cases i <;> exact of_decide_eq_true rfl

/-- A word of a command has no illegal bits (30_encoding.md R73). -/
theorem not_illegalBits_of_decode {w : Word} {i : Instr} (h : decode w = .ok i) : ¬ IllegalBits w := by
  obtain ⟨hwf, rfl⟩ := encode_of_decode h
  obtain ⟨hop, hz, himm⟩ := encode_fields i hwf
  simp only [opField, zField, immField] at hop hz himm
  rw [IllegalBits, hop, hz, not_or, not_or, not_not, not_not, not_not, and_reservedImm_eq_zero, himm]
  exact ⟨opcode_mem_assigned i, rfl, immediate_lt hwf⟩

/-- A word without illegal bits is the word of a command (30_encoding.md R73). -/
theorem decode_of_not_illegalBits {w : Word} (h : ¬ IllegalBits w) : ∃ i : Instr, decode w = .ok i := by
  rw [IllegalBits, not_or, not_or, not_not, not_not, not_not, and_reservedImm_eq_zero] at h
  obtain ⟨hop, hz, himm⟩ := h
  have hok := decodeOp_isOk _ hop _ himm
  cases hd : decode w with
  | ok i => exact ⟨i, rfl⟩
  | error r =>
    rw [← opField, ← immField, ← decode_of_zField hz, hd] at hok
    cases hok

/-- Settles O3: a word is illegal exactly when it decodes to no command. -/
theorem illegalWordsRaiseIllegalCommand : Obligations.IllegalWordsRaiseIllegalCommand := by
  intro w
  refine ⟨fun hill s hs => ?_, fun hleg => ?_⟩
  · rcases execute_cases w s with ⟨i, hi, _⟩ | ⟨_, _, he⟩
    · exact absurd hill (not_illegalBits_of_decode hi)
    · rw [he]
      exact command_errored hs (by decide) rfl
  · obtain ⟨i, hi⟩ := decode_of_not_illegalBits hleg
    exact ⟨i, (encode_of_decode hi).1, hi⟩

end Sys2Proof.Proofs
end

/-! ## Operands out of range -/

section

namespace Sys2Proof.Proofs

open Sys2Proof.Machine Sys2Proof.Laws Sys2Proof.Claims

/-- Settles O13: past the check of `SRC_LEN`, the check of the operand is the first thing each command does. -/
theorem operandOutOfRangeRaises : Obligations.OperandOutOfRangeRaises := by
  intro s n hs hn hn'
  have hinfo : n < 2 ^ 64 := hn'.trans (by decide)
  refine ⟨command_errored (k := .invalidInput) hs hinfo (if_pos hn),
    fun hsrc => command_errored (k := .invalidInput) hs hinfo ?bsRbits,
    command_errored hs (by decide) rfl, command_errored hs (by decide) rfl⟩
  case bsRbits => simp only [hsrc, Bool.false_eq_true, if_false, if_pos hn]

end Sys2Proof.Proofs
end

/-! ## Magics -/

section

namespace Sys2Proof.Proofs

open Sys2Proof.Machine Sys2Proof.Laws Sys2Proof.Claims

/-- The magics and their variants, in the order in which `classify` tries them (30_encoding.md R77). -/
def magicTable : List (List Byte × Variant) :=
  [(magicHybrid, .hybrid), (magicPar, .par), (magicHuf1, .huf1), (magicHuf2, .huf2), (magicStor, .stor)]

/-- A search down a list of magics, one magic at a time. -/
theorem find?_variant_cons (m : List Byte × Variant) (ms : List (List Byte × Variant)) (bytes : List Byte) :
    (((m :: ms).find? fun m => m.1.isPrefixOf bytes).map Prod.snd).getD .unrecognised =
      if m.1.isPrefixOf bytes then m.2
      else ((ms.find? fun m => m.1.isPrefixOf bytes).map Prod.snd).getD .unrecognised := by
  cases h : m.1.isPrefixOf bytes <;> simp [h]

/-- The variant is that of the first magic of the table the bytes begin with (44_frame.md R187). -/
theorem classify_eq_find? (bytes : List Byte) :
    classify bytes = ((magicTable.find? fun m => m.1.isPrefixOf bytes).map Prod.snd).getD .unrecognised := by
  simp only [magicTable, find?_variant_cons]
  rfl

/-- No magic is the beginning of another (44_frame.md R187). -/
theorem magicTable_prefixFree : ∀ m ∈ magicTable, ∀ m' ∈ magicTable, m.1 <+: m'.1 → m = m' := by decide

/-- Bytes that begin with a magic have its variant (44_frame.md R187). -/
theorem classify_of_prefix {magic bytes : List Byte} {v : Variant} (hm : (magic, v) ∈ magicTable)
    (h : magic <+: bytes) : classify bytes = v := by
  rw [classify_eq_find?]
  cases hf : magicTable.find? fun m => m.1.isPrefixOf bytes with
  | none => exact absurd (List.isPrefixOf_iff_prefix.mpr h) (by simpa using List.find?_eq_none.mp hf _ hm)
  | some m' =>
    have hm' := List.mem_of_find?_eq_some hf
    have h' : m'.1 <+: bytes := List.isPrefixOf_iff_prefix.mp (by simpa using List.find?_some hf)
    rcases List.prefix_or_prefix_of_prefix h h' with hp | hp
    · rw [← magicTable_prefixFree _ hm _ hm' hp]; rfl
    · rw [magicTable_prefixFree _ hm' _ hm hp]; rfl

/-- Bytes that begin with no magic are unrecognised (44_frame.md R187). -/
theorem classify_of_no_prefix {bytes : List Byte} (h : ∀ m ∈ magicTable, ¬ m.1 <+: bytes) :
    classify bytes = .unrecognised := by
  have hf : (magicTable.find? fun m => m.1.isPrefixOf bytes) = none :=
    List.find?_eq_none.mpr fun m hm hp => h m hm (List.isPrefixOf_iff_prefix.mp hp)
  rw [classify_eq_find?, hf]
  rfl

/-- `FRM.SNIFF` puts the code of the variant in `RES` (44_frame.md R188). -/
theorem frmSniff_done {s : State} {v : Variant} (hs : Ready s) (hlen : s.srcLen.toNat ≤ s.cap.bufCap)
    (hv : classify (bufferBytes s .src) = v) : exec .frmSniff s = .next { s with res := variantCode v } :=
  command_done hs (by simp only [sourceBytes_ok hlen, hv]; rfl)

/-- Settles O46. -/
theorem magicClassification : Obligations.MagicClassification := by
  intro s hs hlen magics
  refine ⟨fun m hm hp => ?recognised, fun hnone => ?unrecognised⟩
  case recognised =>
    obtain ⟨v, hv, hcode⟩ : ∃ v : Variant, (m.1, v) ∈ magicTable ∧ variantCode v = m.2 := by
      simp only [magics, List.mem_cons, List.not_mem_nil, or_false] at hm
      rcases hm with rfl | rfl | rfl | rfl | rfl
      · exact ⟨.huf1, by decide, rfl⟩
      · exact ⟨.huf2, by decide, rfl⟩
      · exact ⟨.hybrid, by decide, rfl⟩
      · exact ⟨.par, by decide, rfl⟩
      · exact ⟨.stor, by decide, rfl⟩
    rw [← hcode]
    exact frmSniff_done hs hlen (classify_of_prefix hv hp)
  case unrecognised =>
    have hv : classify (bufferBytes s .src) = .unrecognised := by
      refine classify_of_no_prefix fun m hm => hnone (m.1, variantCode m.2) ?_
      revert m
      decide
    refine ⟨frmSniff_done hs hlen hv, command_errored (k := .invalidMagic) hs (by decide) ?_⟩
    simp only [sourceBytes_ok hlen, hv]
    rfl

end Sys2Proof.Proofs
end

/-! ## The frame encoders -/

section

namespace Sys2Proof.Proofs

open Sys2Proof.Machine Sys2Proof.Laws Sys2Proof.Claims

/-! ### Running a frame encoder -/

theorem checkBytes_fitting {n : Nat} {xs : List Byte} (h : xs.length ≤ n) : checkBytes n xs = .ok xs :=
  checkBytes_ok.mpr ⟨rfl, h⟩

theorem checkBytes_full {n : Nat} {xs : List Byte} (h : n < xs.length) :
    checkBytes n xs = .error ⟨.memoryError, xs.length⟩ := if_pos h

/-- Non-empty input inside the buffer is encoded by the encoder of the variant (44_frame.md R180). -/
theorem frameEncode_nonempty {s : State} (enc : List Byte → Except CmdError Encoded) (h0 : s.srcLen ≠ 0#64)
    (hlen : s.srcLen.toNat ≤ s.cap.bufCap) : frameEncode s enc = finishEncode s (enc (bufferBytes s .src)) := by
  have hne : bufferBytes s .src ≠ [] := fun hnil => by
    have := sourceBytes_length s
    rw [hnil] at this
    exact h0 (BitVec.eq_of_toNat_eq this.symm)
  simp only [frameEncode, sourceBytes_ok hlen, if_neg hne]

section
variable {s : State} {i : Instr} {enc : State → List Byte → Except CmdError Encoded} {frame : List Byte}
  {nsym info : Nat} {crc : BitVec 32} {k : ErrorKind}

/-- The state after a frame was stored (44_frame.md R199). -/
theorem frameCommand_done (hexec : exec i s = command (encode i) s fun s => frameEncode s (enc s)) (hs : Ready s)
    (h0 : s.srcLen ≠ 0#64) (hlen : s.srcLen.toNat ≤ s.cap.bufCap)
    (henc : enc s (bufferBytes s .src) = .ok ⟨frame, nsym, crc⟩) :
    exec i s = .next { produced frame s with symCnt := BitVec.ofNat 64 nsym, origLen := s.srcLen, crcr := crc } := by
  rw [hexec]
  exact command_done hs (by rw [frameEncode_nonempty _ h0 hlen, henc]; rfl)

/-- The state after an error of a frame encoder: `DST` is emptied (60_exceptions.md R234). -/
theorem frameCommand_errored (hexec : exec i s = command (encode i) s fun s => frameEncode s (enc s)) (hs : Ready s)
    (h0 : s.srcLen ≠ 0#64) (hlen : s.srcLen.toNat ≤ s.cap.bufCap) (hinfo : info < 2 ^ 64)
    (henc : enc s (bufferBytes s .src) = .error ⟨k, info⟩) :
    exec i s = .next (errored (errorCode k) (BitVec.ofNat 64 info) (encode i) (emptied s)) := by
  rw [hexec]
  exact command_errored hs hinfo (by rw [frameEncode_nonempty _ h0 hlen, henc]; rfl)

end

theorem exec_frmEncPlain (s : State) : exec .frmEncPlain s =
    command (encode .frmEncPlain) s fun s => frameEncode s (encodePlain s.cap.bufCap) := rfl

theorem exec_frmEncHyb (s : State) : exec .frmEncHyb s = command (encode .frmEncHyb) s fun s =>
    frameEncode s (encodeHybrid s.cap s.window.toNat s.lookahead.toNat) := rfl

theorem ofNat_sourceBytes_length (s : State) : BitVec.ofNat 64 (bufferBytes s .src).length = s.srcLen := by
  rw [sourceBytes_length, BitVec.ofNat_toNat, BitVec.setWidth_eq]

/-! ### The frame of a stream -/

section
variable {bufCap : Nat} {magic stream : List Byte} {c : Table CodeEntry}

/-- The size of a frame (30_encoding.md R82, R83). -/
theorem frameOf_length (magic stream : List Byte) (c : Table CodeEntry) :
    (frameOf magic stream c).length = magic.length + 260 + (packBits (streamBits c stream)).length := by
  simp only [List.length_append, toLe_length, (streamLengths stream).size_eq]

theorem encodeStream_done (hc : canonical (streamLengths stream) = .ok c)
    (h : (frameOf magic stream c).length ≤ bufCap) :
    encodeStream bufCap magic stream =
      .ok ⟨frameOf magic stream c, stream.length, crc32 (packBits (streamBits c stream))⟩ := by
  have hp : (packBits (streamBits c stream)).length ≤ bufCap := by
    rw [frameOf_length] at h
    omega
  simp only [encodeStream, hc, checkBytes_fitting hp, checkBytes_fitting h]

/-- The payload is looked at first (log entry 12). -/
theorem encodeStream_payload_full (hc : canonical (streamLengths stream) = .ok c)
    (h : bufCap < (packBits (streamBits c stream)).length) :
    encodeStream bufCap magic stream = .error ⟨.memoryError, (packBits (streamBits c stream)).length⟩ := by
  simp only [encodeStream, hc, checkBytes_full h]

theorem encodeStream_frame_full (hc : canonical (streamLengths stream) = .ok c)
    (hp : (packBits (streamBits c stream)).length ≤ bufCap) (h : bufCap < (frameOf magic stream c).length) :
    encodeStream bufCap magic stream = .error ⟨.memoryError, (frameOf magic stream c).length⟩ := by
  simp only [encodeStream, hc, checkBytes_fitting hp, checkBytes_full h]

/-- An encoded stream is the frame under its canonical table (44_frame.md R181). -/
theorem encodeStream_ok {r : Encoded} (h : encodeStream bufCap magic stream = .ok r) :
    ∃ c : Table CodeEntry, canonical (streamLengths stream) = .ok c ∧
      r = ⟨frameOf magic stream c, stream.length, crc32 (packBits (streamBits c stream))⟩ := by
  simp only [encodeStream] at h
  split at h
  · cases h
  next c hc =>
    refine ⟨c, hc, ?_⟩
    split at h
    · cases h
    next hp =>
      obtain ⟨rfl, -⟩ := checkBytes_ok.mp hp
      split at h
      · cases h
      next hf =>
        obtain ⟨rfl, -⟩ := checkBytes_ok.mp hf
        cases h
        rfl

end

/-! ### The token stream -/

/-- Every token covers at least one byte (42_lz77.md R131). -/
theorem lzTokensFrom_length_le (data : List Byte) (window lookahead fuel p : Nat) :
    (lzTokensFrom data window lookahead fuel p).length ≤ fuel := by
  induction fuel generalizing p with
  | zero => exact le_rfl
  | succ fuel ih =>
    rw [lzTokensFrom]
    split
    · dsimp only
      split
      · exact Nat.succ_le_succ (ih _)
      · exact Nat.succ_le_succ (ih _)
    · exact Nat.zero_le _

theorem lzCompress_length_le (data : List Byte) (window lookahead : Nat) :
    (lzCompress data window lookahead).length ≤ data.length := lzTokensFrom_length_le _ _ _ _ _

theorem checkTokens_fitting {n : Nat} {toks : List Token} (h : toks.length ≤ n) : checkTokens n toks = .ok toks :=
  if_neg (Nat.not_lt.mpr h)

theorem checkTokens_full {n : Nat} {toks : List Token} (h : n < toks.length) :
    checkTokens n toks = .error ⟨.memoryError, toks.length⟩ := if_pos h

section
variable {cap : Config} {window lookahead : Nat} {data : List Byte}

/-- With the tokens and their bytes inside the capacities the stream is the token bytes (44_frame.md R181). -/
theorem encodeHybrid_eq (htok : (lzCompress data window lookahead).length ≤ cap.tokCap)
    (hbuf : (tokensToBytes (lzCompress data window lookahead)).length ≤ cap.bufCap) :
    encodeHybrid cap window lookahead data =
      encodeStream cap.bufCap magicHybrid (tokensToBytes (lzCompress data window lookahead)) := by
  simp only [encodeHybrid, checkTokens_fitting htok, checkBytes_fitting hbuf]

theorem encodeHybrid_tokens_full (htok : cap.tokCap < (lzCompress data window lookahead).length) :
    encodeHybrid cap window lookahead data = .error ⟨.memoryError, (lzCompress data window lookahead).length⟩ := by
  simp only [encodeHybrid, checkTokens_full htok]

theorem encodeHybrid_bytes_full (htok : (lzCompress data window lookahead).length ≤ cap.tokCap)
    (hbuf : cap.bufCap < (tokensToBytes (lzCompress data window lookahead)).length) :
    encodeHybrid cap window lookahead data =
      .error ⟨.memoryError, (tokensToBytes (lzCompress data window lookahead)).length⟩ := by
  simp only [encodeHybrid, checkTokens_fitting htok, checkBytes_full hbuf]

end

/-! ### The single frames -/

/-- A frame whose payload fits a buffer has a size that fits `ERRINFO`. -/
theorem frameOf_length_lt {cap : Config} {magic stream : List Byte} {c : Table CodeEntry} (hcap : cap.Valid)
    (hm : magic.length ≤ 8) (hp : (packBits (streamBits c stream)).length ≤ cap.bufCap) :
    (frameOf magic stream c).length < 2 ^ 64 := by
  obtain ⟨⟨_, hbuf⟩, _⟩ := hcap
  rw [frameOf_length]
  omega

/-- Settles O43: each clause is one way the checks of the encoder turn out. -/
theorem plainAndHybridFrames : Obligations.PlainAndHybridFrames := by
  intro s c hs hcap h0 hlen
  have hplain := exec_frmEncPlain s
  have hhyb := exec_frmEncHyb s
  refine ⟨fun hc => ⟨fun hf => ?plain, fun hp hp' => ?plainPayload, fun hp hf => ?plainFrame⟩, fun htok => ?tokens,
    fun htok hbuf => ?bytes, fun htok hbuf hc => ⟨fun hf => ?hybrid, fun hp hp' => ?hybridPayload,
    fun hp hf => ?hybridFrame⟩⟩
  case plain =>
    rw [frameCommand_done hplain hs h0 hlen (encodeStream_done hc hf), ofNat_sourceBytes_length]
  case plainPayload => exact frameCommand_errored hplain hs h0 hlen hp' (encodeStream_payload_full hc hp)
  case plainFrame =>
    exact frameCommand_errored hplain hs h0 hlen (frameOf_length_lt hcap (by decide) hp)
      (encodeStream_frame_full hc hp hf)
  case tokens =>
    have hle := lzCompress_length_le (bufferBytes s .src) s.window.toNat s.lookahead.toNat
    rw [sourceBytes_length] at hle
    exact frameCommand_errored hhyb hs h0 hlen (hle.trans_lt s.srcLen.isLt) (encodeHybrid_tokens_full htok)
  case bytes =>
    refine frameCommand_errored hhyb hs h0 hlen ?_ (encodeHybrid_bytes_full htok hbuf)
    obtain ⟨_, _, htokCap⟩ := hcap
    rw [tokensToBytes_length]
    omega
  case hybrid =>
    exact frameCommand_done hhyb hs h0 hlen ((encodeHybrid_eq htok hbuf).trans (encodeStream_done hc hf))
  case hybridPayload =>
    exact frameCommand_errored hhyb hs h0 hlen hp' ((encodeHybrid_eq htok hbuf).trans (encodeStream_payload_full hc hp))
  case hybridFrame =>
    exact frameCommand_errored hhyb hs h0 hlen (frameOf_length_lt hcap (by decide) hp)
      ((encodeHybrid_eq htok hbuf).trans (encodeStream_frame_full hc hp hf))

end Sys2Proof.Proofs
end

/-! ## The container and the stored frame -/

section

namespace Sys2Proof.Proofs

open Sys2Proof.Machine Sys2Proof.Laws Sys2Proof.Claims

/-! ### Chunks -/

/-- The number of chunks (44_frame.md R185). -/
theorem chunksOf_length (size : Nat) (data : List Byte) :
    (chunksOf size data).length = (data.length + size - 1) / size := by
  simp only [chunksOf, List.length_map, List.length_range, ceilDiv]

/-- Bytes `a` to `a + n - 1` of `SRC`, those below `SRC_LEN`. -/
theorem sourceBytes_drop_take (s : State) (a n : Nat) : ((bufferBytes s .src).drop a).take n =
    (List.range' a (min n (s.srcLen.toNat - a))).map (bufferByte s .src) := by
  refine List.ext_getElem ?_ fun k _ _ => ?_
  · simp [bufferLen]
  · simp [bufferBytes]

/-- The bytes of chunk `i` (44_frame.md R185). -/
theorem chunksOf_getElem? {s : State} {size i : Nat} {chunk : List Byte}
    (h : (chunksOf size (bufferBytes s .src))[i]? = some chunk) :
    chunk = (List.range' (i * size) (min ((i + 1) * size) s.srcLen.toNat - i * size)).map (bufferByte s .src) := by
  rw [chunksOf, List.getElem?_map, Option.map_eq_some_iff] at h
  obtain ⟨j, hj, rfl⟩ := h
  obtain ⟨-, rfl⟩ := List.getElem?_eq_some_iff.mp hj
  rw [sourceBytes_drop_take, List.getElem_range, Nat.add_mul, Nat.one_mul, ← Nat.sub_min_sub_right,
    Nat.add_sub_cancel_left]

/-- Encoding chunks is encoding each of them (44_frame.md R185). -/
theorem encodeChunks_ok {bufCap : Nat} {chunks : List (List Byte)} {blobs : List Encoded} :
    encodeChunks bufCap chunks = .ok blobs ↔ List.Forall₂ (fun d b => encodePlain bufCap d = .ok b) chunks blobs := by
  induction chunks generalizing blobs with
  | nil =>
    simp only [encodeChunks, Except.ok.injEq, List.forall₂_nil_left_iff]
    exact eq_comm
  | cons d ds ih =>
    rw [List.forall₂_cons_left_iff, encodeChunks]
    cases hd : encodePlain bufCap d with
    | error e => simp
    | ok b =>
      cases hds : encodeChunks bufCap ds with
      | error e => simp [← ih, hds]
      | ok bs => simp [← ih, hds, @eq_comm _ blobs]

/-- The first chunk that cannot be encoded decides the error (44_frame.md R185; 60_exceptions.md R235). -/
theorem encodeChunks_error {bufCap : Nat} {pre post : List (List Byte)} {chunk : List Byte} {blobs : List Encoded}
    {e : CmdError} (hpre : encodeChunks bufCap pre = .ok blobs) (h : encodePlain bufCap chunk = .error e) :
    encodeChunks bufCap (pre ++ chunk :: post) = .error e := by
  rw [encodeChunks_ok] at hpre
  induction hpre with
  | nil => simp only [List.nil_append, encodeChunks, h]
  | cons hd _ ih => simp only [List.cons_append, encodeChunks, hd, ih]

/-- When every frame fits, every chunk is encoded. -/
theorem encodeChunks_done {bufCap : Nat} {chunks : List (List Byte)}
    (h : ∀ d ∈ chunks, ∃ c : Table CodeEntry, canonical (streamLengths d) = .ok c ∧
      (frameOf magicHuf2 d c).length ≤ bufCap) : ∃ blobs : List Encoded, encodeChunks bufCap chunks = .ok blobs := by
  induction chunks with
  | nil => exact ⟨[], rfl⟩
  | cons d ds ih =>
    obtain ⟨⟨c, hc, hf⟩, hds⟩ := List.forall_mem_cons.mp h
    obtain ⟨bs, hbs⟩ := ih hds
    exact ⟨_, encodeChunks_ok.mpr (.cons (encodeStream_done hc hf) (encodeChunks_ok.mp hbs))⟩

/-- Blob `i` is the whole `HUF2` frame of chunk `i` (30_encoding.md R86). -/
theorem encodeChunks_getElem? {bufCap : Nat} {chunks : List (List Byte)} {blobs : List Encoded}
    (h : encodeChunks bufCap chunks = .ok blobs) {i : Nat} {b : Encoded} (hb : blobs[i]? = some b) :
    ∃ (chunk : List Byte) (c : Table CodeEntry), chunks[i]? = some chunk ∧ canonical (streamLengths chunk) = .ok c ∧
      b.frame = frameOf magicHuf2 chunk c ∧ b.crc = crc32 (packBits (streamBits c chunk)) := by
  obtain ⟨hlen, hget⟩ := List.forall₂_iff_get.mp (encodeChunks_ok.mp h)
  obtain ⟨hi, rfl⟩ := List.getElem?_eq_some_iff.mp hb
  obtain ⟨c, hc, hr⟩ := encodeStream_ok (hget i (hlen ▸ hi) hi)
  exact ⟨_, c, List.getElem?_eq_getElem (hlen ▸ hi), hc, congrArg Encoded.frame hr, congrArg Encoded.crc hr⟩

/-! ### Containers -/

/-- The container of encoded chunks (30_encoding.md R86). -/
theorem containerBytes_frames (blobs : List Encoded) : containerBytes (blobs.map Encoded.frame) =
    magicPar ++ toLe 8 blobs.length ++ blobs.flatMap (fun b => toLe 8 b.frame.length) ++
      blobs.flatMap Encoded.frame := by
  rw [containerBytes, List.length_map, List.flatMap_map, List.flatMap_def (f := Encoded.frame)]

section
variable {bufCap size : Nat} {data : List Byte}

theorem encodePar_done {blobs : List Encoded} (hsize : size ≠ 0)
    (hb : encodeChunks bufCap (chunksOf size data) = .ok blobs)
    (h : (containerBytes (blobs.map Encoded.frame)).length ≤ bufCap) :
    encodePar bufCap size data = .ok ⟨containerBytes (blobs.map Encoded.frame), data.length,
      (blobs.getLast?.map Encoded.crc).getD 0#32⟩ := by
  simp only [encodePar, if_neg hsize, hb, checkBytes_fitting h]

theorem encodePar_full {blobs : List Encoded} (hsize : size ≠ 0)
    (hb : encodeChunks bufCap (chunksOf size data) = .ok blobs)
    (h : bufCap < (containerBytes (blobs.map Encoded.frame)).length) :
    encodePar bufCap size data = .error ⟨.memoryError, (containerBytes (blobs.map Encoded.frame)).length⟩ := by
  simp only [encodePar, if_neg hsize, hb, checkBytes_full h]

theorem encodePar_chunk_error {pre post : List (List Byte)} {chunk : List Byte} {blobs : List Encoded} {e : CmdError}
    (hsize : size ≠ 0) (hsplit : chunksOf size data = pre ++ chunk :: post)
    (hpre : encodeChunks bufCap pre = .ok blobs) (h : encodePlain bufCap chunk = .error e) :
    encodePar bufCap size data = .error e := by
  simp only [encodePar, if_neg hsize, hsplit, encodeChunks_error hpre h]

end

theorem exec_frmEncPar (s : State) : exec .frmEncPar s = command (encode .frmEncPar) s fun s =>
    frameEncode s (encodePar s.cap.bufCap s.chunkSz.toNat) := rfl

/-! ### Stored frames -/

/-- The encoder of `FRM.ENC.STOR` (44_frame.md R186). -/
def encodeStored (s : State) (data : List Byte) : Except CmdError Encoded :=
  match checkBytes s.cap.bufCap (storFrame data) with
  | .error e => .error e
  | .ok frame => .ok ⟨frame, 0, s.crcr⟩

theorem exec_frmEncStor (s : State) : exec .frmEncStor s =
    command (encode .frmEncStor) s fun s => frameEncode s (encodeStored s) := rfl

theorem storFrame_length (data : List Byte) : (storFrame data).length = 12 + data.length := by
  rw [storFrame, List.length_append, List.length_append, toLe_length]
  rfl

theorem encodeStored_done {s : State} {data : List Byte} (h : (storFrame data).length ≤ s.cap.bufCap) :
    encodeStored s data = .ok ⟨storFrame data, 0, s.crcr⟩ := by
  simp only [encodeStored, checkBytes_fitting h]

theorem encodeStored_full {s : State} {data : List Byte} (h : s.cap.bufCap < (storFrame data).length) :
    encodeStored s data = .error ⟨.memoryError, (storFrame data).length⟩ := by
  simp only [encodeStored, checkBytes_full h]

/-! ### Empty input -/

/-- The empty-file frame does not fit a buffer of fewer than 12 bytes, whatever the variant (44_frame.md R182). -/
theorem frameCommand_empty_full {s : State} {i : Instr} {enc : State → List Byte → Except CmdError Encoded}
    (hexec : exec i s = command (encode i) s fun s => frameEncode s (enc s)) (hs : Ready s) (h0 : s.srcLen = 0#64)
    (hcap : s.cap.bufCap < 12) :
    exec i s = .next (errored 9#8 (BitVec.ofNat 64 12) (encode i) (emptied s)) := by
  have hdata : bufferBytes s .src = [] := List.eq_nil_of_length_eq_zero (by rw [sourceBytes_length, h0]; rfl)
  have hsrc : sourceBytes s = .ok [] := by rw [sourceBytes_ok (by rw [h0]; exact Nat.zero_le _), hdata]
  rw [hexec]
  refine command_errored (k := .memoryError) hs (by decide) ?_
  simp only [frameEncode, hsrc, if_true, checkBytes_full (xs := emptyFrame) hcap]
  rfl

/-- Settles O44: the chunks and their blobs, then each way the checks of the two encoders turn out. -/
theorem containerAndStoredFrames : Obligations.ContainerAndStoredFrames := by
  intro s hs hcap hlen
  have hpar := exec_frmEncPar s
  have hstor := exec_frmEncStor s
  refine ⟨fun h0 => ⟨fun _ => ⟨?chunkCount, fun i chunk => chunksOf_getElem?, encodeChunks_done, fun blobs hb =>
    ⟨?blobCount, fun i b => encodeChunks_getElem? hb⟩⟩, fun blobs hsize hb => ?container,
    fun pre post chunk blobs c hsize hsplit hpre hc => ⟨fun hp hp' => ?payload, fun hp hf => ?frame⟩,
    fun hsize => ?zeroSize, fun hfits => ?stored, fun hfull => ?storedFull⟩, fun h0 hcap12 => ?empty⟩
  case chunkCount => rw [chunksOf_length, sourceBytes_length]
  case blobCount => exact (encodeChunks_ok.mp hb).length_eq.symm
  case container =>
    have hsize' : s.chunkSz.toNat ≠ 0 := BitVec.toNat_ne.mp hsize
    rw [← containerBytes_frames]
    refine ⟨fun hf => ?_, fun hf hf' => frameCommand_errored hpar hs h0 hlen hf' (encodePar_full hsize' hb hf)⟩
    rw [frameCommand_done hpar hs h0 hlen (encodePar_done hsize' hb hf), ofNat_sourceBytes_length]
  case payload =>
    exact frameCommand_errored hpar hs h0 hlen hp'
      (encodePar_chunk_error (BitVec.toNat_ne.mp hsize) hsplit hpre (encodeStream_payload_full hc hp))
  case frame =>
    exact frameCommand_errored hpar hs h0 hlen (frameOf_length_lt hcap (by decide) hp)
      (encodePar_chunk_error (BitVec.toNat_ne.mp hsize) hsplit hpre (encodeStream_frame_full hc hp hf))
  case zeroSize =>
    exact frameCommand_errored (k := .invalidInput) hpar hs h0 hlen (by decide) (if_pos (by rw [hsize]; rfl))
  case stored =>
    rw [← sourceBytes_length, ← storFrame_length] at hfits
    rw [frameCommand_done hstor hs h0 hlen (encodeStored_done hfits), storFrame, sourceBytes_length]
  case storedFull =>
    rw [← sourceBytes_length, ← storFrame_length] at hfull ⊢
    refine frameCommand_errored hstor hs h0 hlen ?_ (encodeStored_full hfull)
    rw [storFrame_length, sourceBytes_length]
    obtain ⟨⟨_, hbuf⟩, _⟩ := hcap
    omega
  case empty =>
    simp only [List.mem_cons, List.not_mem_nil, or_false, forall_eq_or_imp, forall_eq]
    exact ⟨frameCommand_empty_full (exec_frmEncPlain s) hs h0 hcap12,
      frameCommand_empty_full (exec_frmEncHyb s) hs h0 hcap12,
      frameCommand_empty_full hpar hs h0 hcap12, frameCommand_empty_full hstor hs h0 hcap12⟩

end Sys2Proof.Proofs
end

/-! ## The bits of a byte sequence -/

section

namespace Sys2Proof.Proofs

open Sys2Proof.Machine Sys2Proof.Laws

@[simp] theorem bitsOfByte_length (x : Byte) : (bitsOfByte x).length = 8 := bitsMsb_length 8 x.toNat

/-- Bit `j` of a byte in stream order (20_memory.md R51). -/
@[simp] theorem bitsOfByte_getElem (x : Byte) {j : Nat} (h : j < (bitsOfByte x).length) :
    (bitsOfByte x)[j] = x.getLsbD (7 - j) := by
  simp [bitsOfByte, bitsMsb, BitVec.getLsbD]

theorem bitsOf_append (xs ys : List Byte) : bitsOf (xs ++ ys) = bitsOf xs ++ bitsOf ys := List.flatMap_append

theorem bitsOf_cons (x : Byte) (xs : List Byte) : bitsOf (x :: xs) = bitsOfByte x ++ bitsOf xs := List.flatMap_cons

@[simp] theorem bitsOf_length (xs : List Byte) : (bitsOf xs).length = 8 * xs.length := by
  induction xs with
  | nil => rfl
  | cons x xs ih => rw [bitsOf_cons, List.length_append, bitsOfByte_length, ih, List.length_cons]; omega

/-- Bit `8 * a + j` of a byte sequence is bit `j` of byte `a` (20_memory.md R51). -/
theorem bitsOf_getElem? (xs : List Byte) (a : Nat) {j : Nat} (hj : j < 8) :
    (bitsOf xs)[8 * a + j]? = xs[a]?.map fun x => x.getLsbD (7 - j) := by
  induction xs generalizing a with
  | nil => rfl
  | cons x xs ih =>
    rw [bitsOf_cons]
    cases a with
    | zero => simp [List.getElem?_append, hj]
    | succ a =>
      rw [List.getElem?_append_right (by simp; omega), bitsOfByte_length, show 8 * (a + 1) + j - 8 = 8 * a + j by omega,
        ih, List.getElem?_cons_succ]

end Sys2Proof.Proofs
end

/-! ## The bit stream writer -/

section

namespace Sys2Proof.Proofs

open Sys2Proof.Machine Sys2Proof.Laws Sys2Proof.Claims

/-! ### The partial byte -/

section
variable {s : State}

/-- The bits of `W_ACC` below those already written are 0 (10_state.md R30). -/
theorem writerInv_pending_low (h : WriterInv s) {j : Nat} (hj : j + s.wN.toNat < 8) : s.wAcc.getLsbD j = false := by
  have hbit : (s.wAcc.toNat % 2 ^ (8 - s.wN.toNat)).testBit j = false := by rw [h.accLow, Nat.zero_testBit]
  rwa [Nat.testBit_mod_two_pow, decide_eq_true (by omega), Bool.true_and] at hbit

/-- The partial byte is its pending bits, then zero bits (40_bitstream.md R100). -/
theorem bitsOfByte_wAcc (h : WriterInv s) :
    bitsOfByte s.wAcc = (bitsOfByte s.wAcc).take s.wN.toNat ++ List.replicate (8 - s.wN.toNat) false := by
  have hdrop : (bitsOfByte s.wAcc).drop s.wN.toNat = List.replicate (8 - s.wN.toNat) false := by
    refine List.ext_getElem (by simp) fun j _ h2 => ?_
    rw [List.length_replicate] at h2
    rw [List.getElem_drop, bitsOfByte_getElem, List.getElem_replicate]
    exact writerInv_pending_low h (by omega)
  rw [← hdrop, List.take_append_drop]

/-- A bit added to the partial byte follows the pending bits (40_bitstream.md R100). -/
theorem bitsOfByte_accWith (h : WriterInv s) (b : Bool) :
    (bitsOfByte (accWith s b)).take (s.wN.toNat + 1) = (bitsOfByte s.wAcc).take s.wN.toNat ++ [b] := by
  have hn := s.wN.isLt
  have hbit : ∀ j : Nat, (BitVec.ofNat 8 b.toNat).getLsbD j = (decide (j = 0) && b) := by
    intro j
    cases b <;> cases j <;> simp [BitVec.getLsbD_one]
  refine List.ext_getElem (by simp; omega) fun j h1 _ => ?_
  simp only [List.length_take, bitsOfByte_length] at h1
  rw [List.getElem_take, bitsOfByte_getElem, accWith, BitVec.getLsbD_or, BitVec.getLsbD_shiftLeft, hbit]
  by_cases hj : j = s.wN.toNat
  · subst hj
    rw [writerInv_pending_low h (by omega)]
    simp [show s.wN.toNat ≤ 8 by omega, show 7 - s.wN.toNat < 8 by omega]
  · have hlt : j < s.wN.toNat := by omega
    rw [List.getElem_append_left (by simp; omega)]
    simp [show 7 - j - (7 - s.wN.toNat) ≠ 0 by omega]

/-! ### The stream -/

theorem writerStream_length (s : State) : (writerStream s).length = 8 * s.wLen.toNat + s.wN.toNat := by
  have hn := s.wN.isLt
  rw [writerStream, List.length_append, bitsOf_length, bufferBytes_length, List.length_take, bitsOfByte_length,
    Nat.min_eq_left (by omega)]
  rfl

/-- Room, as a bound on the number of bits: the last byte may stay partial. -/
theorem roomFor_iff (m : Nat) (s : State) : RoomFor m s ↔ (writerStream s).length + m < 8 * s.cap.bufCap + 8 := by
  rw [writerStream_length, RoomFor]
  omega

/-- What the writer holds fits (10_state.md R36). -/
theorem writerInv_roomFor_zero (h : WriterInv s) : RoomFor 0 s := by
  have hn := s.wN.isLt
  have hle := h.lenLe
  simp only [RoomFor]
  omega

/-- `W_LEN` does not wrap below the capacity. -/
theorem wLen_add_one_toNat (hcap : s.cap.Valid) (hroom : s.wLen.toNat < s.cap.bufCap) :
    (s.wLen + 1#64).toNat = s.wLen.toNat + 1 := by
  obtain ⟨⟨_, hbuf⟩, _⟩ := hcap
  exact BitVec.toNat_add_of_lt (show s.wLen.toNat + 1 < 2 ^ 64 by omega)

/-- A byte stored at `W_LEN` follows the bytes below it. -/
theorem bufferBytes_completeByte (hcap : s.cap.Valid) (acc : Byte) (hroom : s.wLen.toNat < s.cap.bufCap) :
    bufferBytes { s with
      bsw := Sparse.put s.bsw s.wLen.toNat acc, wLen := s.wLen + 1#64, wAcc := 0#8, wN := 0#3 } .bsw =
      bufferBytes s .bsw ++ [acc] := by
  simp only [bufferBytes, bufferLen, wLen_add_one_toNat hcap hroom, List.range_succ, List.map_append, List.map_cons,
    List.map_nil]
  congr 1
  · refine List.map_congr_left fun a ha => ?_
    simp only [bufferByte, bufferCells, get?_put_ne _ _ (List.mem_range.mp ha).ne]
  · simp only [bufferByte, bufferCells, get?_put_eq, Option.getD_some]

/-- The byte appended when `W_ACC` is complete or flushed (40_bitstream.md R100). -/
theorem appendByte_ok (hcap : s.cap.Valid) (acc : Byte) (hroom : s.wLen.toNat < s.cap.bufCap) :
    ∃ t : State, appendByteToWriter acc s = .ok t ∧
      t = { s with bsw := t.bsw, wLen := s.wLen + 1#64, wAcc := 0#8, wN := 0#3 } ∧
      writerStream t = bitsOf (bufferBytes s .bsw) ++ bitsOfByte acc := by
  obtain ⟨hfull, _⟩ | ⟨_, ht⟩ := appendByte_cases acc s
  · omega
  refine ⟨_, ht, rfl, ?_⟩
  rw [writerStream, bufferBytes_completeByte hcap acc hroom, bitsOf_append]
  simp [bitsOf]

/-- A full writer: the byte is not appended (60_exceptions.md R234). -/
theorem appendByte_full (h : WriterInv s) (acc : Byte) (hfull : ¬ s.wLen.toNat < s.cap.bufCap) :
    appendByteToWriter acc s = .error ⟨.memoryError, s.cap.bufCap⟩ := by
  obtain ⟨_, ht⟩ | ⟨hroom, _⟩ := appendByte_cases acc s
  · rw [ht, h.lenLe.antisymm (Nat.not_lt.mp hfull)]
  · exact absurd hroom hfull

/-- `write_bit` with room appends the bit (40_bitstream.md R100). -/
theorem writeBit_ok (hcap : s.cap.Valid) (h : WriterInv s) (b : Bool) (hroom : RoomFor 1 s) :
    ∃ t : State, writeBit s b = .ok t ∧ writerStream t = writerStream s ++ [b] := by
  have hacc := bitsOfByte_accWith h b
  rw [writerStream, List.append_assoc, ← hacc]
  by_cases hn : s.wN = 7#3
  · have hlt : s.wLen.toNat < s.cap.bufCap := by
      simp only [RoomFor, hn] at hroom
      exact hroom
    obtain ⟨t, ht, _, hstream⟩ := appendByte_ok hcap (accWith s b) hlt
    refine ⟨t, by rw [writeBit, if_pos hn, ht], ?_⟩
    rw [hstream, hn, List.take_of_length_le (by simp)]
  · have hlt : s.wN.toNat + 1 < 2 ^ 3 := by
      have : s.wN.toNat ≠ 7 := fun e => hn (BitVec.eq_of_toNat_eq e)
      have := s.wN.isLt
      omega
    refine ⟨_, if_neg hn, ?_⟩
    have hsucc : (s.wN + 1#3).toNat = s.wN.toNat + 1 := BitVec.toNat_add_of_lt hlt
    simp only [writerStream, hsucc]
    rfl

/-- `write_bit` without room: the bit would complete a byte beyond `BUF_CAP` (40_bitstream.md R102). -/
theorem writeBit_full (h : WriterInv s) (b : Bool) (hroom : ¬ RoomFor 1 s) :
    writeBit s b = .error ⟨.memoryError, s.cap.bufCap⟩ := by
  have hle := h.lenLe
  have hn : s.wN.toNat = 7 := by
    have := s.wN.isLt
    simp only [RoomFor] at hroom
    omega
  have hfull : ¬ s.wLen.toNat < s.cap.bufCap := by
    simp only [RoomFor, hn] at hroom
    exact hroom
  rw [writeBit, if_pos (BitVec.eq_of_toNat_eq hn), appendByte_full h _ hfull]

/-- What holds after a bit was written, so that the next one can be. -/
theorem writeBit_keeps {t : State} {b : Bool} (h : WriterInv s) (ht : writeBit s b = .ok t)
    (hstream : writerStream t = writerStream s ++ [b]) (m : Nat) :
    t.cap = s.cap ∧ WriterInv t ∧ (RoomFor m t ↔ RoomFor (m + 1) s) := by
  have hcap : t.cap = s.cap := by rw [writeBit_frame ht]
  refine ⟨hcap, (writeBit_updates ht).keep Update.keeps_writerInv h, ?_⟩
  rw [roomFor_iff, roomFor_iff, hcap, hstream, List.length_append, List.length_singleton]
  omega

/-- Bits with room are appended in order (40_bitstream.md R103). -/
theorem writeBits_ok (hcap : s.cap.Valid) (h : WriterInv s) (bs : List Bool) (hroom : RoomFor bs.length s) :
    ∃ t : State, writeBits s bs = .ok t ∧ writerStream t = writerStream s ++ bs := by
  induction bs generalizing s with
  | nil => exact ⟨s, rfl, (List.append_nil _).symm⟩
  | cons b bs ih =>
    have hroom1 : RoomFor 1 s := by
      rw [roomFor_iff, List.length_cons] at *
      omega
    obtain ⟨u, hu, hstream⟩ := writeBit_ok hcap h b hroom1
    obtain ⟨hcapu, hinv, hroomu⟩ := writeBit_keeps h hu hstream bs.length
    obtain ⟨t, ht, htstream⟩ := ih (hcapu ▸ hcap) hinv (hroomu.mpr hroom)
    refine ⟨t, by rw [writeBits, hu]; exact ht, ?_⟩
    rw [htstream, hstream, List.append_assoc, List.singleton_append]

/-- Bits without room for all of them: the first that does not fit raises the error (40_bitstream.md R103). -/
theorem writeBits_full (hcap : s.cap.Valid) (h : WriterInv s) (bs : List Bool) (hroom : ¬ RoomFor bs.length s) :
    writeBits s bs = .error ⟨.memoryError, s.cap.bufCap⟩ := by
  induction bs generalizing s with
  | nil => exact absurd (writerInv_roomFor_zero h) hroom
  | cons b bs ih =>
    by_cases hroom1 : RoomFor 1 s
    · obtain ⟨u, hu, hstream⟩ := writeBit_ok hcap h b hroom1
      obtain ⟨hcapu, hinv, hroomu⟩ := writeBit_keeps h hu hstream bs.length
      rw [writeBits, hu, ← hcapu]
      exact ih (hcapu ▸ hcap) hinv (hroomu.not.mpr hroom)
    · rw [writeBits, writeBit_full h b hroom1]

/-- `flush` with room for the partial byte pads it with zero bits (40_bitstream.md R100, R104). -/
theorem flushWriter_ok (hcap : s.cap.Valid) (h : WriterInv s) (hn : s.wN ≠ 0#3) (hroom : s.wLen.toNat < s.cap.bufCap) :
    ∃ t : State, flushWriter s = .ok t ∧ t = { s with bsw := t.bsw, wLen := s.wLen + 1#64, wAcc := 0#8, wN := 0#3 } ∧
      writerStream t = writerStream s ++ List.replicate (8 - s.wN.toNat) false := by
  obtain ⟨t, ht, hframe, hstream⟩ := appendByte_ok hcap s.wAcc hroom
  refine ⟨t, by rw [flushWriter, if_neg hn, ht], hframe, ?_⟩
  rw [hstream, bitsOfByte_wAcc h, writerStream, List.append_assoc]

theorem flushWriter_noPending (hn : s.wN = 0#3) : flushWriter s = .ok s := if_pos hn

/-! ### The commands -/

/-- A writer command whose pseudocode succeeds. -/
theorem writerCommand_ok {w : Word} {t : State} {r : State → Except CmdError State} (hs : Ready s) (hr : r s = .ok t) :
    command w s (fun s => writerCommand s (r s)) = .next t :=
  command_done hs (by rw [hr]; rfl)

/-- A writer command that does not fit: only the error registers change (60_exceptions.md R234). -/
theorem writerCommand_full {w : Word} {r : State → Except CmdError State} (hs : Ready s) (hcap : s.cap.Valid)
    (hr : r s = .error ⟨.memoryError, s.cap.bufCap⟩) :
    command w s (fun s => writerCommand s (r s)) = .next (errored 9#8 (BitVec.ofNat 64 s.cap.bufCap) w s) := by
  obtain ⟨⟨_, hbuf⟩, _⟩ := hcap
  exact command_errored (k := .memoryError) hs (by omega) (by rw [hr]; rfl)

theorem exec_bsWbit (b : Nat) (s : State) : exec (.bsWbit b) s =
    command (encode (.bsWbit b)) s fun s => writerCommand s (writeBit s (decide (b ≠ 0))) := rfl

theorem exec_bsFlush (s : State) : exec .bsFlush s =
    command (encode .bsFlush) s fun s => writerCommand s (flushWriter s) := rfl

/-- `BS.WBITS n` with `n` at most 64 (40_bitstream.md R103). -/
theorem exec_bsWbits {n : Nat} (hn : n ≤ 64) (s : State) : exec (.bsWbits n) s =
    command (encode (.bsWbits n)) s fun s => writerCommand s (writeBits s (bitsMsb n s.arg0.toNat)) := by
  simp only [exec, execBsWbits, if_neg (Nat.not_lt.mpr hn)]

end

/-- Settles O18. -/
theorem writeAppendsBits : Obligations.WriteAppendsBits := by
  intro s hs hcap h
  refine ⟨fun b hb hroom => ?wbit, fun n hn hroom => ?wbits⟩
  case wbit =>
    have hbit : decide (b ≠ 0) = (b == 1) := by
      obtain rfl | rfl : b = 0 ∨ b = 1 := by omega
      all_goals rfl
    obtain ⟨t, ht, hstream⟩ := writeBit_ok hcap h (b == 1) hroom
    rw [exec_bsWbit, hbit]
    exact ⟨t, writerCommand_ok hs ht, hstream, (writeBit_updates ht).keep Update.keeps_writerInv h, writeBit_frame ht⟩
  case wbits =>
    obtain ⟨t, ht, hstream⟩ := writeBits_ok hcap h (bitsMsb n s.arg0.toNat) (by rwa [bitsMsb_length])
    rw [exec_bsWbits hn]
    exact ⟨t, writerCommand_ok hs ht, hstream, (writeBits_updates ht).keep Update.keeps_writerInv h, writeBits_frame ht⟩

/-- Settles O19. -/
theorem flushPadsThePartialByte : Obligations.FlushPadsThePartialByte := by
  intro s hs hcap h
  have hidle : ∀ u : State, Ready u → u.wN = 0#3 → exec .bsFlush u = .next u := fun u hu hn =>
    writerCommand_ok hu (flushWriter_noPending hn)
  refine ⟨hidle s hs, fun hn hroom => ?_⟩
  obtain ⟨t, ht, hframe, hstream⟩ := flushWriter_ok hcap h hn hroom
  exact ⟨t, writerCommand_ok hs ht, hstream, hframe, hidle t (by rw [hframe]; exact hs) (by rw [hframe])⟩

/-- Settles O20. -/
theorem writerFullLeavesTheWriter : Obligations.WriterFullLeavesTheWriter := by
  intro s hs hcap h
  refine ⟨fun b _ hroom => ?wbit, fun n hn hroom => ?wbits, fun hn hlen => ?flush⟩
  case wbit => exact writerCommand_full hs hcap (writeBit_full h _ hroom)
  case wbits =>
    rw [exec_bsWbits hn]
    exact writerCommand_full hs hcap (writeBits_full hcap h _ (by rwa [bitsMsb_length]))
  case flush =>
    refine writerCommand_full (r := flushWriter) hs hcap ?_
    rw [flushWriter, if_neg hn, appendByte_full h _ hlen.not_lt]

end Sys2Proof.Proofs
end

/-! ## What the bit stream commands change -/

section

namespace Sys2Proof.Proofs

open Sys2Proof.Machine Sys2Proof.Laws

/-- The writer went from `s` to `t` by storing the bytes of `BSW` from the old `W_LEN` up to the new one
(40_bitstream.md R110). -/
structure WriterAppends (s t : State) : Prop where
  frame : t = { s with bsw := t.bsw, wLen := t.wLen, wAcc := t.wAcc, wN := t.wN }
  lenLe : s.wLen.toNat ≤ t.wLen.toNat
  stored : ∀ a : Nat, a < s.wLen.toNat ∨ t.wLen.toNat ≤ a →
    Sparse.get? (α := Byte) t.bsw a = Sparse.get? (α := Byte) s.bsw a

namespace WriterAppends

theorem refl (s : State) : WriterAppends s s := ⟨rfl, le_rfl, fun _ _ => rfl⟩

theorem trans {s t u : State} (h : WriterAppends s t) (h' : WriterAppends t u) : WriterAppends s u where
  frame := by
    have hu := h'.frame
    rw [h.frame] at hu
    exact hu
  lenLe := h.lenLe.trans h'.lenLe
  stored a ha := by
    have hle := h.lenLe
    have hle' := h'.lenLe
    rw [h'.stored a (by omega), h.stored a (by omega)]

theorem cap {s t : State} (h : WriterAppends s t) : t.cap = s.cap := by rw [h.frame]

end WriterAppends

section
variable {s t : State}

theorem appendByte_appends (hcap : s.cap.Valid) {acc : Byte} (h : appendByteToWriter acc s = .ok t) :
    WriterAppends s t := by
  rcases appendByte_cases acc s with ⟨_, e⟩ | ⟨hroom, e⟩ <;> rw [e] at h <;> cases h
  have hlen := wLen_add_one_toNat hcap hroom
  refine ⟨rfl, hlen ▸ Nat.le_succ _, fun a ha => get?_put_ne _ _ ?_⟩
  rw [hlen] at ha
  omega

theorem writeBit_appends (hcap : s.cap.Valid) {b : Bool} (h : writeBit s b = .ok t) : WriterAppends s t := by
  unfold writeBit at h
  split at h
  · exact appendByte_appends hcap h
  · cases h
    exact ⟨rfl, le_rfl, fun _ _ => rfl⟩

theorem writeBits_appends (hcap : s.cap.Valid) {bs : List Bool} (h : writeBits s bs = .ok t) : WriterAppends s t := by
  induction bs generalizing s with
  | nil => cases h; exact .refl _
  | cons b bs ih =>
    simp only [writeBits] at h
    split at h
    next u hu =>
      have hsu := writeBit_appends hcap hu
      exact hsu.trans (ih (hsu.cap ▸ hcap) h)
    · cases h

theorem flushWriter_appends (hcap : s.cap.Valid) (h : flushWriter s = .ok t) : WriterAppends s t := by
  unfold flushWriter at h
  split at h
  · cases h; exact .refl s
  · exact appendByte_appends hcap h

theorem encodeSymbols_appends (hcap : s.cap.Valid) {i : Nat} {xs : List Byte} (h : encodeSymbols s i xs = .ok t) :
    WriterAppends s t := by
  induction xs generalizing s i with
  | nil => cases h; exact .refl _
  | cons x xs ih =>
    simp only [encodeSymbols] at h
    split at h
    · cases h
    · split at h
      next u hu =>
        have hsu := writeBits_appends hcap hu
        exact hsu.trans (ih (hsu.cap ▸ hcap) h)
      · cases h

end

/-- `read_bit` changes the cursor (40_bitstream.md R110). -/
theorem readBit_frame {s t : State} {b : Bool} (h : readBit s = .ok (b, t)) :
    t = { s with rByte := t.rByte, rBit := t.rBit } := by
  rcases readBit_cases s with ⟨_, e⟩ | ⟨_, e⟩ <;> rw [e] at h <;> cases h
  exact advanceCursor_frame s

/-- Settles O52: what a writer command stores is what its writer appended; an error leaves the writer as it was, or
empties it. -/
theorem writerCommandsFrame : Obligations.WriterCommandsFrame := by
  intro s t b n hcap
  have happ : ∀ {u : State} {p q : Prop}, WriterAppends s u →
      u = { s with bsw := u.bsw, wLen := u.wLen, wAcc := u.wAcc, wN := u.wN,
                   err := u.err, errInfo := u.errInfo, errCmd := u.errCmd } ∧
        (p → q → ∀ a : Nat, (a < s.wLen.toNat ∨ u.wLen.toNat ≤ a) →
          Sparse.get? (α := Byte) u.bsw a = Sparse.get? (α := Byte) s.bsw a) :=
    fun h => ⟨by rw [h.frame], fun _ _ => h.stored⟩
  simp only [List.mem_cons, List.not_mem_nil, or_false, forall_eq_or_imp, forall_eq]
  refine ⟨?winit, ?wbit, ?wbits, ?flush, ?enc⟩ <;> revert t
  case winit => exact command_meets (happ (.refl s)) ⟨rfl, fun h => absurd rfl h⟩
  case wbit =>
    exact command_meets (happ (.refl s)) (meets_writerCommand (fun _ h => happ (writeBit_appends hcap h))
      fun _ => ⟨rfl, fun _ _ _ _ => rfl⟩)
  case wbits =>
    refine command_meets (happ (.refl s)) ?_
    split
    · exact ⟨rfl, fun _ _ _ _ => rfl⟩
    · exact meets_writerCommand (fun _ h => happ (writeBits_appends hcap h)) fun _ => ⟨rfl, fun _ _ _ _ => rfl⟩
  case flush =>
    exact command_meets (happ (.refl s)) (meets_writerCommand (fun _ h => happ (flushWriter_appends hcap h))
      fun _ => ⟨rfl, fun _ _ _ _ => rfl⟩)
  case enc =>
    refine command_meets (happ (.refl s)) ?_
    split
    · exact ⟨rfl, fun _ _ _ _ => rfl⟩
    · split
      next h => exact happ (encodeSymbols_appends hcap h)
      · exact ⟨rfl, fun _ hready => absurd (hready trivial) (takeError_not_ready _ _ _)⟩

/-- Settles O53: however the pseudocode of one of these commands ends, it has written only the registers named. -/
theorem readerCommandsFrame : Obligations.ReaderCommandsFrame := by
  intro s t k
  simp only [List.mem_cons, List.not_mem_nil, or_false, forall_eq_or_imp, forall_eq]
  refine ⟨?rinit, ⟨?rbit, ?rbits⟩, ?crc, ?sniff⟩ <;> revert t
  case rinit | sniff =>
    refine command_meets (by exact rfl) ?_
    split <;> exact rfl
  case crc =>
    refine command_meets (by exact rfl) ?_
    split
    · exact rfl
    · split <;> exact rfl
  case rbit =>
    refine command_meets (by exact rfl) ?_
    split
    · exact rfl
    · split
      next hr => rw [readBit_frame hr]; exact rfl
      · exact rfl
  case rbits =>
    refine command_meets (by exact rfl) ?_
    split
    · exact rfl
    · split
      · exact rfl
      · split
        next hr => rw [readBits_frame hr]; exact rfl
        · exact rfl

/-- Settles O17. -/
theorem writerAndReaderConstruction : Obligations.WriterAndReaderConstruction := by
  refine ⟨fun s hs => ⟨clearWriter s, command_done hs rfl, rfl, rfl, rfl⟩, fun s sel hs hsel => command_done hs ?rinit⟩
  case rinit =>
    obtain ⟨b, hb⟩ := Option.isSome_iff_exists.mp ((bufferOf_isSome sel).trans (decide_eq_true hsel))
    simp only [hb]

end Sys2Proof.Proofs
end

/-! ## The bit stream reader -/

section

namespace Sys2Proof.Proofs

open Sys2Proof.Machine Sys2Proof.Laws Sys2Proof.Claims

/-! ### The cursor -/

/-- The number of bits before the cursor (40_bitstream.md R105). -/
def cursorPos (s : State) : Nat := 8 * s.rByte.toNat + s.rBit.toNat

theorem skipBits_eq (n : Nat) (s : State) : skipBits n s =
    setCursor (BitVec.ofNat 64 ((cursorPos s + n) / 8)) (BitVec.ofNat 3 ((cursorPos s + n) % 8)) s := rfl

theorem cursorPos_skipBits {n : Nat} {s : State} (h : (cursorPos s + n) / 8 < 2 ^ 64) :
    cursorPos (skipBits n s) = cursorPos s + n := by
  rw [cursorPos, skipBits_eq, setCursor_rByte, setCursor_rBit, toNat_ofNat_of_lt h,
    toNat_ofNat_of_lt (n := (cursorPos s + n) % 8) (Nat.mod_lt _ (by decide)), Nat.div_add_mod]

theorem skipBits_zero (s : State) : skipBits 0 s = s := by
  have hbit := s.rBit.isLt
  rw [skipBits_eq, cursorPos, show (8 * s.rByte.toNat + s.rBit.toNat + 0) / 8 = s.rByte.toNat by omega,
    show (8 * s.rByte.toNat + s.rBit.toNat + 0) % 8 = s.rBit.toNat by omega, BitVec.ofNat_toNat, BitVec.ofNat_toNat,
    BitVec.setWidth_eq, BitVec.setWidth_eq]
  rfl

theorem skipBits_skipBits {m : Nat} (n : Nat) {s : State} (h : (cursorPos s + m) / 8 < 2 ^ 64) :
    skipBits n (skipBits m s) = skipBits (m + n) s := by
  rw [skipBits_eq, cursorPos_skipBits h, Nat.add_assoc]
  rfl

/-- The cursor one bit further, at the start of the next byte after bit 7 (40_bitstream.md R105). -/
theorem advanceCursor_eq (s : State) : advanceCursor s = skipBits 1 s := by
  have hbit := s.rBit.isLt
  rw [skipBits_eq, cursorPos, advanceCursor]
  split
  next h7 =>
    rw [h7, show (8 * s.rByte.toNat + (7#3).toNat + 1) / 8 = s.rByte.toNat + 1 from by simp; omega,
      show (8 * s.rByte.toNat + (7#3).toNat + 1) % 8 = 0 from by simp; omega, BitVec.ofNat_add, BitVec.ofNat_toNat,
      BitVec.setWidth_eq]
  next h7 =>
    have : s.rBit.toNat ≠ 7 := fun e => h7 (BitVec.eq_of_toNat_eq e)
    rw [show (8 * s.rByte.toNat + s.rBit.toNat + 1) / 8 = s.rByte.toNat by omega,
      show (8 * s.rByte.toNat + s.rBit.toNat + 1) % 8 = s.rBit.toNat + 1 by omega, BitVec.ofNat_add, BitVec.ofNat_toNat,
      BitVec.ofNat_toNat, BitVec.setWidth_eq, BitVec.setWidth_eq]

@[simp] theorem readerLen_skipBits (n : Nat) (s : State) : readerLen (skipBits n s) = readerLen s := rfl

theorem readerByte_skipBits (n : Nat) (s : State) : readerByte (skipBits n s) = readerByte s := rfl

theorem readerLen_lt (s : State) : readerLen s < 2 ^ 64 := by
  unfold readerLen
  split
  next b _ => cases b <;> exact BitVec.isLt _
  · decide

/-! ### The remaining bits -/

/-- The bits of the buffer the reader borrows, in stream order (20_memory.md R51). -/
def readerBits (s : State) : List Bool := bitsOf ((List.range (readerLen s)).map (readerByte s))

theorem remainingBits_eq (s : State) : remainingBits s = (readerBits s).drop (cursorPos s) := rfl

theorem readerBits_length (s : State) : (readerBits s).length = 8 * readerLen s := by
  rw [readerBits, bitsOf_length, List.length_map, List.length_range]

theorem remainingBits_length (s : State) : (remainingBits s).length = 8 * readerLen s - cursorPos s := by
  rw [remainingBits_eq, List.length_drop, readerBits_length]

/-- Bits remain exactly while the cursor stands in a byte of the buffer (40_bitstream.md R105). -/
theorem remainingBits_length_pos {s : State} : 0 < (remainingBits s).length ↔ s.rByte.toNat < readerLen s := by
  have hbit := s.rBit.isLt
  rw [remainingBits_length, cursorPos]
  omega

/-- The bit under the cursor is the first of the remaining ones (40_bitstream.md R105). -/
theorem remainingBits_cons {s : State} (h : s.rByte.toNat < readerLen s) :
    remainingBits s =
      (readerByte s s.rByte.toNat).getLsbD (7 - s.rBit.toNat) :: remainingBits (skipBits 1 s) := by
  have hbit := s.rBit.isLt
  have hlen := readerLen_lt s
  have hpos : cursorPos s < (readerBits s).length := by rw [readerBits_length, cursorPos]; omega
  have hget : (readerBits s)[cursorPos s]? = some ((readerByte s s.rByte.toNat).getLsbD (7 - s.rBit.toNat)) := by
    rw [readerBits, cursorPos, bitsOf_getElem? _ _ hbit]
    simp [h]
  have hnext : remainingBits (skipBits 1 s) = (readerBits s).drop (cursorPos s + 1) := by
    rw [remainingBits_eq, cursorPos_skipBits (by rw [cursorPos]; omega)]
    rfl
  rw [hnext, remainingBits_eq, List.drop_eq_getElem_cons hpos, (List.getElem?_eq_some_iff.mp hget).2]

/-- `read_bit` takes the first of the remaining bits (40_bitstream.md R105). -/
theorem readBit_ok {s : State} {b : Bool} {bs : List Bool} (h : remainingBits s = b :: bs) :
    readBit s = .ok (b, skipBits 1 s) ∧ remainingBits (skipBits 1 s) = bs := by
  have hin : s.rByte.toNat < readerLen s := remainingBits_length_pos.mp (by rw [h]; exact Nat.succ_pos _)
  obtain ⟨rfl, hrest⟩ := List.cons_eq_cons.mp ((remainingBits_cons hin).symm.trans h)
  obtain ⟨hout, _⟩ | ⟨_, hr⟩ := readBit_cases s
  · omega
  · rw [advanceCursor_eq] at hr
    exact ⟨hr, hrest⟩

theorem readBit_exhausted {s : State} (h : readerLen s ≤ s.rByte.toNat) :
    readBit s = .error ⟨.streamExhausted, s.rByte.toNat⟩ := if_pos h

/-- `n` calls of `read_bit` take the first `n` of the remaining bits (40_bitstream.md R108). -/
theorem readBits_ok {s : State} {n : Nat} (v : Nat) (h : n ≤ (remainingBits s).length) :
    readBits n v s =
      .ok (((remainingBits s).take n).foldl (fun v b => 2 * v + b.toNat) v, skipBits n s) := by
  induction n generalizing s v with
  | zero => rw [skipBits_zero]; rfl
  | succ n ih =>
    cases hb : remainingBits s with
    | nil => rw [hb] at h; cases h
    | cons b bs =>
      obtain ⟨hr, rfl⟩ := readBit_ok hb
      have hpos : (cursorPos s + 1) / 8 < 2 ^ 64 := by
        have hlen := readerLen_lt s
        rw [remainingBits_length] at h
        omega
      rw [hb, List.length_cons] at h
      rw [readBits, hr]
      simp only [ih _ (Nat.le_of_succ_le_succ h), List.take_succ_cons, List.foldl_cons, skipBits_skipBits n hpos,
        Nat.add_comm 1 n]

/-- `read_bit` called more often than bits remain: the detail is the byte position at which it failed
(40_bitstream.md R108; log entry 10). -/
theorem readBits_exhausted {s : State} {n : Nat} (v : Nat) (h : (remainingBits s).length < n) :
    readBits n v s = .error ⟨.streamExhausted, max s.rByte.toNat (readerLen s)⟩ := by
  induction n generalizing s v with
  | zero => cases h
  | succ n ih =>
    by_cases hin : s.rByte.toNat < readerLen s
    · obtain ⟨hr, hrest⟩ := readBit_ok (remainingBits_cons hin)
      have hbyte : (skipBits 1 s).rByte.toNat ≤ readerLen s := by
        have hbit := s.rBit.isLt
        refine (toNat_ofNat_le 64 _).trans ?_
        omega
      have hlt : (remainingBits (skipBits 1 s)).length < n := by
        rw [remainingBits_cons hin, List.length_cons] at h
        omega
      rw [readBits, hr]
      simp only [ih _ hlt, readerLen_skipBits, Nat.max_eq_right hbyte, Nat.max_eq_right hin.le]
    · rw [readBits, readBit_exhausted (Nat.not_lt.mp hin), Nat.max_eq_left (Nat.not_lt.mp hin)]

/-! ### The commands -/

section
variable {s : State}

/-- `BS.RBIT` with a bit left (40_bitstream.md R107). -/
theorem bsRbit_done {b : Bool} {bs : List Bool} (hs : Ready s) (hsrc : readerBlocked s = false)
    (h : remainingBits s = b :: bs) :
    exec .bsRbit s = .next (setRes (BitVec.ofNat 64 b.toNat) (skipBits 1 s)) :=
  command_done hs (by simp only [hsrc, Bool.false_eq_true, if_false, (readBit_ok h).1])

/-- `BS.RBIT` without a bit left changes the error registers alone (40_bitstream.md R107). -/
theorem bsRbit_exhausted (hs : Ready s) (hsrc : readerBlocked s = false) (h : readerLen s ≤ s.rByte.toNat) :
    exec .bsRbit s = .next (errored 1#8 (BitVec.ofNat 64 s.rByte.toNat) (encode .bsRbit) s) :=
  command_errored (k := .streamExhausted) hs s.rByte.isLt
    (by simp only [hsrc, Bool.false_eq_true, if_false, readBit_exhausted h])

end

/-- Settles O21. -/
theorem readTakesTheNextBits : Obligations.ReadTakesTheNextBits := by
  intro s hs hsrc
  refine ⟨fun hin => ?rbit, fun n hn hleft => ?rbits⟩
  case rbit =>
    rw [bsRbit_done hs hsrc (remainingBits_cons hin), remainingBits_cons hin]
    simp only [List.take_succ_cons, List.take_zero, bitsValue, List.foldl_cons, List.foldl_nil, Nat.mul_zero,
      Nat.zero_add]
    rfl
  case rbits =>
    have hle : n ≤ (remainingBits s).length := by
      rw [remainingBits_length, cursorPos]
      omega
    refine command_done hs ?_
    simp only [hsrc, Bool.false_eq_true, if_false, if_neg (Nat.not_lt.mpr hn), readBits_ok 0 hle]
    rfl

/-- Settles O22. -/
theorem readerExhaustion : Obligations.ReaderExhaustion := by
  intro s hs hsrc
  have hself : BitVec.ofNat 64 s.rByte.toNat = s.rByte := by rw [BitVec.ofNat_toNat, BitVec.setWidth_eq]
  refine ⟨fun hout => ?rbit, fun n h1 hn hleft => ?rbits⟩
  case rbit => rw [bsRbit_exhausted hs hsrc hout, hself]
  case rbits =>
    have hlt : (remainingBits s).length < n := by
      rw [remainingBits_length, cursorPos]
      omega
    have hdetail : BitVec.ofNat 64 (max s.rByte.toNat (readerLen s)) =
        if s.rByte.toNat < readerLen s then BitVec.ofNat 64 (readerLen s) else s.rByte := by
      split
      next hin => rw [Nat.max_eq_right hin.le]
      next hin => rw [Nat.max_eq_left (Nat.not_lt.mp hin), hself]
    rw [← hdetail]
    refine command_errored (k := .streamExhausted) hs (Nat.max_lt.mpr ⟨s.rByte.isLt, readerLen_lt s⟩) ?_
    simp only [hsrc, Bool.false_eq_true, if_false, if_neg (Nat.not_lt.mpr hn), readBits_exhausted 0 hlt]
    rfl

end Sys2Proof.Proofs
end

/-! ## Bits written and read back -/

section

namespace Sys2Proof.Proofs

open Sys2Proof.Machine Sys2Proof.Laws

/-- Commands after commands that leave a next state. -/
theorem execList_append {is : List Instr} {s t : State} (h : execList is s = .next t) (js : List Instr) :
    execList (is ++ js) s = execList js t := by
  induction is generalizing s with
  | nil => cases h; rfl
  | cons i is ih =>
    obtain ⟨u, hu⟩ := exec_next i s
    simp only [execList, List.cons_append, hu] at h ⊢
    exact ih h

/-! ### Writing -/

/-- The commands that write `bs` bit by bit are `write_bit` for each bit (40_bitstream.md R102). -/
theorem execList_bsWbit {bs : List Bool} {s t : State} (hs : Ready s) (h : writeBits s bs = .ok t) :
    execList (bs.map fun b => .bsWbit b.toNat) s = .next t := by
  induction bs generalizing s with
  | nil => cases h; rfl
  | cons b bs ih =>
    simp only [writeBits] at h
    split at h
    next u hu =>
      have hbit : decide (b.toNat ≠ 0) = b := by cases b <;> rfl
      have hexec : exec (.bsWbit b.toNat) s = .next u := by
        rw [exec_bsWbit, hbit]
        exact writerCommand_ok hs hu
      simp only [List.map_cons, execList, hexec]
      exact ih (by rw [writeBit_frame hu]; exact hs) h
    · cases h

/-- `BS.FLUSH` with room leaves whole bytes: the bits held, then fewer than 8 zero bits (40_bitstream.md R104). -/
theorem bsFlush_done {s : State} (hs : Ready s) (hcap : s.cap.Valid) (h : WriterInv s)
    (hroom : (writerStream s).length ≤ 8 * s.cap.bufCap) :
    ∃ (t : State) (pad : Nat), exec .bsFlush s = .next t ∧ Ready t ∧ t.wN = 0#3 ∧ pad < 8 ∧
      writerStream t = writerStream s ++ List.replicate pad false := by
  by_cases hn : s.wN = 0#3
  · exact ⟨s, 0, writerCommand_ok hs (flushWriter_noPending hn), hs, hn, by decide, (List.append_nil _).symm⟩
  · have hpend : s.wN.toNat ≠ 0 := fun e => hn (BitVec.eq_of_toNat_eq e)
    rw [writerStream_length] at hroom
    obtain ⟨t, ht, hframe, hstream⟩ := flushWriter_ok hcap h hn (by omega)
    exact ⟨t, 8 - s.wN.toNat, writerCommand_ok hs ht, by rw [hframe]; exact hs, by rw [hframe], by omega, hstream⟩

/-- Bits that fit, written from an empty writer and flushed (40_bitstream.md R109). -/
theorem execList_write_flush {s : State} {bs : List Bool} (hs : Ready s) (hcap : s.cap.Valid)
    (hlen : bs.length ≤ 8 * s.cap.bufCap) :
    ∃ (t : State) (pad : Nat), Ready t ∧ t.wN = 0#3 ∧ pad < 8 ∧ writerStream t = bs ++ List.replicate pad false ∧
      execList ([.bsWinit] ++ bs.map (fun b => .bsWbit b.toNat) ++ [.bsFlush]) s = .next t := by
  have hempty : writerStream (clearWriter s) = [] := rfl
  have hinit : execList [.bsWinit] s = .next (clearWriter s) := by
    rw [execList, show exec .bsWinit s = .next (clearWriter s) from command_done hs rfl]
    rfl
  have hinv : WriterInv (clearWriter s) := ⟨rfl, Nat.zero_le _⟩
  have hroom : RoomFor bs.length (clearWriter s) := by
    rw [roomFor_iff, hempty, clearWriter_cap, List.length_nil]
    omega
  obtain ⟨u, hu, hstream⟩ := writeBits_ok (s := clearWriter s) hcap hinv bs hroom
  rw [hempty, List.nil_append] at hstream
  have hucap : u.cap = s.cap := by rw [writeBits_frame hu]; rfl
  have hready : Ready u := by rw [writeBits_frame hu]; exact hs
  obtain ⟨t, pad, ht, htready, hwN, hpad, htstream⟩ := bsFlush_done hready (hucap ▸ hcap)
    ((writeBits_updates hu).keep Update.keeps_writerInv hinv) (by rw [hstream, hucap]; exact hlen)
  refine ⟨t, pad, htready, hwN, hpad, hstream ▸ htstream, ?_⟩
  have hwrite := execList_bsWbit (s := clearWriter s) hs hu
  rw [List.append_assoc, execList_append hinit, execList_append hwrite, execList, ht]
  rfl

/-! ### Reading -/

/-- The reader is free to read, and `bits` are the bits it has still to read. -/
structure Reading (bits : List Bool) (s : State) : Prop where
  ready : Ready s
  notBlocked : readerBlocked s = false
  remaining : remainingBits s = bits

theorem Reading.bsRbit {b : Bool} {bs : List Bool} {s : State} (h : Reading (b :: bs) s) :
    ∃ t : State, exec .bsRbit s = .next t ∧ Reading bs t ∧ t.res = BitVec.ofNat 64 b.toNat :=
  ⟨_, bsRbit_done h.ready h.notBlocked h.remaining,
    ⟨h.ready, h.notBlocked, (readBit_ok h.remaining).2⟩, rfl⟩

theorem Reading.bsRbit_nil {s : State} (h : Reading [] s) : ∃ t : State, exec .bsRbit s = .next t ∧ t.err = 1#8 := by
  have hout : readerLen s ≤ s.rByte.toNat := by
    rw [← Nat.not_lt, ← remainingBits_length_pos, h.remaining]
    exact Nat.lt_irrefl 0
  exact ⟨_, bsRbit_exhausted h.ready h.notBlocked hout, rfl⟩

/-- `k + 1` commands `BS.RBIT` put bit `k` of the remaining ones in `RES` (40_bitstream.md R107). -/
theorem Reading.execList_bsRbit {bits : List Bool} {s : State} {k : Nat} {b : Bool} (h : Reading bits s)
    (hb : bits[k]? = some b) :
    ∃ t : State, execList (List.replicate (k + 1) .bsRbit) s = .next t ∧ Ready t ∧ t.res = BitVec.ofNat 64 b.toNat := by
  induction bits generalizing s k with
  | nil => cases hb
  | cons c bs ih =>
    obtain ⟨u, hu, hreading, hres⟩ := h.bsRbit
    cases k with
    | zero =>
      cases hb
      exact ⟨u, by simp only [List.replicate, execList, hu], hreading.ready, hres⟩
    | succ k =>
      rw [List.replicate_succ]
      simp only [execList, hu]
      exact ih hreading hb

/-- One command `BS.RBIT` more than bits remain raises `StreamExhausted` (40_bitstream.md R107). -/
theorem Reading.execList_bsRbit_exhausted {bits : List Bool} {s : State} (h : Reading bits s) :
    ∃ t : State, execList (List.replicate (bits.length + 1) .bsRbit) s = .next t ∧ t.err = 1#8 := by
  induction bits generalizing s with
  | nil =>
    obtain ⟨t, ht, herr⟩ := h.bsRbit_nil
    exact ⟨t, by simp only [List.length_nil, List.replicate, execList, ht], herr⟩
  | cons b bs ih =>
    obtain ⟨u, hu, hreading, _⟩ := h.bsRbit
    rw [List.length_cons, List.replicate_succ]
    simp only [execList, hu]
    exact ih hreading

/-- The reader attached to whole bytes of the writer reads what the writer holds (40_bitstream.md R106, R109). -/
theorem reading_bsw {s : State} (hs : Ready s) (hn : s.wN = 0#3) :
    Reading (writerStream s) { s with rSel := 2#2, rByte := 0#64, rBit := 0#3 } where
  ready := hs
  notBlocked := rfl
  remaining := by
    rw [writerStream, hn]
    exact (List.append_nil _).symm

/-- Settles O23: the bits written and the padding are what the reader has to read. -/
theorem bitStreamRoundTrip : Obligations.BitStreamRoundTrip := by
  intro s bs hs hcap hlen
  obtain ⟨t, pad, ht, hn, hpad, hstream, hexec⟩ := execList_write_flush hs hcap hlen
  have hreading := hstream ▸ reading_bsw ht hn
  have hbits : (bs ++ List.replicate pad false).length = 8 * t.wLen.toNat := by
    rw [← hstream, writerStream_length, hn]
    rfl
  have hlength : bs.length + pad = 8 * t.wLen.toNat := by simpa using hbits
  have hinit : execList [.bsRinit 2] t = .next { t with rSel := 2#2, rByte := 0#64, rBit := 0#3 } := by
    rw [execList, writerAndReaderConstruction.2 t 2 ht (by decide)]
    rfl
  refine ⟨_, ?_, by show t.wLen.toNat = _; omega, fun k hk => hreading.execList_bsRbit ?_,
    hbits ▸ hreading.execList_bsRbit_exhausted⟩
  · rw [← hinit, ← execList_append hexec, List.append_assoc _ [Instr.bsFlush]]
    rfl
  · show (bs ++ List.replicate pad false)[k]? = _
    change k < 8 * t.wLen.toNat at hk
    rw [List.getD_eq_getElem?_getD]
    by_cases hin : k < bs.length
    · rw [List.getElem?_append_left hin]
      simp [hin]
    · simp [List.getElem?_append_right (Nat.not_lt.mp hin), List.getElem?_replicate, hin]
      omega

end Sys2Proof.Proofs
end

/-! ## The CRC-32 engine -/

section

namespace Sys2Proof.Proofs

open Sys2Proof.Machine Sys2Proof.Laws Sys2Proof.Claims

/-! ### The reflected division (41_crc32.md R120) -/

theorem crcStep_of_even {c : BitVec 32} (h : c.getLsbD 0 = false) : crcStep c = c >>> 1 :=
  if_neg (Bool.eq_false_iff.mp h)

theorem crcStep_of_odd {c : BitVec 32} (h : c.getLsbD 0 = true) : crcStep c = (c >>> 1) ^^^ Config.crcPoly :=
  if_pos h

/-- A step is linear over GF(2). -/
theorem crcStep_xor (a b : BitVec 32) : crcStep (a ^^^ b) = crcStep a ^^^ crcStep b := by
  have hlow : (a ^^^ b).getLsbD 0 = (a.getLsbD 0 ^^ b.getLsbD 0) := BitVec.getLsbD_xor
  cases ha : a.getLsbD 0 <;> cases hb : b.getLsbD 0 <;> rw [ha, hb] at hlow
  · rw [crcStep_of_even hlow, crcStep_of_even ha, crcStep_of_even hb, BitVec.ushiftRight_xor_distrib]
  · rw [crcStep_of_odd hlow, crcStep_of_even ha, crcStep_of_odd hb, BitVec.ushiftRight_xor_distrib, BitVec.xor_assoc]
  · rw [crcStep_of_odd hlow, crcStep_of_odd ha, crcStep_of_even hb, BitVec.ushiftRight_xor_distrib]
    ac_rfl
  · rw [crcStep_of_even hlow, crcStep_of_odd ha, crcStep_of_odd hb, BitVec.ushiftRight_xor_distrib]
    calc a >>> 1 ^^^ b >>> 1 = a >>> 1 ^^^ b >>> 1 ^^^ (Config.crcPoly ^^^ Config.crcPoly) := by
          rw [BitVec.xor_self, BitVec.xor_zero]
      _ = (a >>> 1 ^^^ Config.crcPoly) ^^^ (b >>> 1 ^^^ Config.crcPoly) := by ac_rfl

/-- The polynomial has its top bit set, so the top bit after a step is the bit shifted out: nothing is lost. -/
theorem crcStep_top (c : BitVec 32) : (crcStep c).getLsbD 31 = c.getLsbD 0 := by
  cases h : c.getLsbD 0
  · simp [crcStep_of_even h]
  · simp [crcStep_of_odd h, Config.crcPoly]

theorem crcStep_eq_zero {c : BitVec 32} (h : crcStep c = 0#32) : c = 0#32 := by
  have hlow : c.getLsbD 0 = false := by rw [← crcStep_top, h]; rfl
  rw [crcStep_of_even hlow] at h
  refine BitVec.eq_of_getLsbD_eq fun i _ => ?_
  cases i with
  | zero => simpa using hlow
  | succ i => simpa [Nat.add_comm] using congrArg (BitVec.getLsbD · i) h

theorem crcStep_injective : Function.Injective crcStep := fun a b h =>
  BitVec.xor_eq_zero_iff.mp (crcStep_eq_zero (by rw [crcStep_xor, h, BitVec.xor_self]))

theorem crcSteps_xor (n : Nat) (a b : BitVec 32) : crcSteps n (a ^^^ b) = crcSteps n a ^^^ crcSteps n b := by
  induction n generalizing a b with
  | zero => rfl
  | succ n ih => rw [crcSteps, crcStep_xor, ih]; rfl

theorem crcSteps_injective (n : Nat) : Function.Injective (crcSteps n) := by
  induction n with
  | zero => exact Function.injective_id
  | succ n ih => exact ih.comp crcStep_injective

/-- Steps that shift out zeros only shift. -/
theorem crcSteps_of_low_zero {n : Nat} {c : BitVec 32} (h : ∀ i < n, c.getLsbD i = false) :
    crcSteps n c = c >>> n := by
  induction n generalizing c with
  | zero => rfl
  | succ n ih =>
    have hshift : ∀ i < n, (c >>> 1).getLsbD i = false := fun i hi => by
      simpa [Nat.add_comm] using h (i + 1) (by omega)
    rw [crcSteps, crcStep_of_even (h 0 n.succ_pos), ih hshift, ← BitVec.shiftRight_add, Nat.add_comm]

/-! ### The table-driven update (41_crc32.md R121) -/

/-- The table does the eight steps of a byte at once: the low byte goes through the table, and the rest, which has no
low byte, is only shifted. -/
theorem crcUpdate_eq_crcSteps (c : BitVec 32) (x : Byte) : crcUpdate c x = crcSteps 8 (c ^^^ x.setWidth 32) := by
  generalize hd : c ^^^ x.setWidth 32 = d
  generalize hlow : (d.extractLsb' 0 8).setWidth 32 = low
  have hbit : ∀ i, low.getLsbD i = (decide (i < 8) && d.getLsbD i) := fun i => by
    by_cases hi : i < 8
    · simp [← hlow, hi, Nat.lt_trans hi]
    · simp [← hlow, hi]
  have hrest : crcSteps 8 (low ^^^ d) = (low ^^^ d) >>> 8 :=
    crcSteps_of_low_zero fun i hi => by simp [hbit, hi]
  have hshift : (low ^^^ d) >>> 8 = c >>> 8 := BitVec.eq_of_getLsbD_eq fun i _ => by
    simp [hbit, ← hd]
  calc crcUpdate c x = crcSteps 8 low ^^^ c >>> 8 := by rw [crcUpdate, crcTable, hd, hlow]
    _ = crcSteps 8 low ^^^ crcSteps 8 (low ^^^ d) := by rw [hrest, hshift]
    _ = crcSteps 8 d := by rw [← crcSteps_xor, ← BitVec.xor_assoc, BitVec.xor_self, BitVec.zero_xor]

theorem crcUpdate_injective_register (x : Byte) : Function.Injective (crcUpdate · x) := fun a b h => by
  simp only [crcUpdate_eq_crcSteps] at h
  exact (BitVec.xor_left_inj _).mp (crcSteps_injective 8 h)

theorem crcUpdate_injective_byte (c : BitVec 32) : Function.Injective (crcUpdate c) := fun x y h => by
  simp only [crcUpdate_eq_crcSteps] at h
  have hwide := (BitVec.xor_right_inj _).mp (crcSteps_injective 8 h)
  simpa using congrArg (BitVec.setWidth 8) hwide

/-- Registers that differ still differ after the same bytes. -/
theorem foldl_crcUpdate_injective (bytes : List Byte) :
    Function.Injective fun c : BitVec 32 => bytes.foldl crcUpdate c := by
  induction bytes with
  | nil => exact Function.injective_id
  | cons x xs ih => exact ih.comp (crcUpdate_injective_register x)

/-- The CRC tells apart byte sequences that differ in one byte. -/
theorem crc32_injective_byte (pre post : List Byte) :
    Function.Injective fun x : Byte => crc32 (pre ++ x :: post) := fun x y h => by
  simp only [crc32, List.foldl_append, List.foldl_cons, BitVec.xor_left_inj] at h
  exact crcUpdate_injective_byte _ (foldl_crcUpdate_injective post h)

/-- Settles O25: flipping a bit changes its byte, and the CRC tells the two bytes apart. -/
theorem crcDetectsOneFlippedBit : Obligations.CrcDetectsOneFlippedBit := by
  intro pre post x k hk hcrc
  have hbyte : x = x ^^^ (1#8 <<< k) := crc32_injective_byte pre post hcrc
  have hbit := congrArg (BitVec.getLsbD · k) hbyte
  simp [hk] at hbit

/-- Settles O24: past the check of `SRC_LEN` the command is the engine run on the buffer. -/
theorem crcCalcResult : Obligations.CrcCalcResult := by
  refine ⟨fun s sel b hs hb hlen => command_done hs ?_, by decide +kernel, rfl⟩
  have hfits : ¬ (b = .src ∧ s.cap.bufCap < s.srcLen.toNat) := fun h => Nat.not_lt.mpr (hlen h.1) h.2
  simp only [hb, if_neg hfits]

end Sys2Proof.Proofs
end

/-! ## The LZ77 tokenizer -/

section

namespace Sys2Proof.Proofs

open Sys2Proof.Machine Sys2Proof.Laws Sys2Proof.Claims

/-! ### The match at a distance (42_lz77.md R131, the inner loop) -/

theorem matchLen_le (maxlen : Nat) (xs ys : List Byte) : matchLen maxlen xs ys ≤ maxlen := by
  fun_induction matchLen maxlen xs ys with
  | case1 | case2 | case3 | case5 => exact Nat.zero_le _
  | case4 maxlen x xs ys ih => exact Nat.succ_le_succ ih

/-- Below the length of the match the bytes agree. -/
theorem matchLen_agree {maxlen : Nat} {xs ys : List Byte} {j : Nat} (h : j < matchLen maxlen xs ys) :
    xs[j]? = ys[j]? := by
  fun_induction matchLen maxlen xs ys generalizing j with
  | case1 | case2 | case3 | case5 => cases h
  | case4 maxlen x xs ys ih =>
    cases j with
    | zero => rfl
    | succ j => exact ih (Nat.lt_of_succ_lt_succ h)

/-- A match that ends before its bound and before the data ends at a byte that differs. -/
theorem matchLen_maximal {maxlen : Nat} {xs ys : List Byte} (h : matchLen maxlen xs ys < maxlen)
    (hys : matchLen maxlen xs ys < ys.length) :
    xs[matchLen maxlen xs ys]? ≠ ys[matchLen maxlen xs ys]? := by
  fun_induction matchLen maxlen xs ys with
  | case1 => cases h
  | case2 maxlen ys =>
    rw [List.getElem?_nil, List.getElem?_eq_getElem hys]
    exact (Option.some_ne_none _).symm
  | case3 => cases hys
  | case4 maxlen x xs ys ih => exact ih (Nat.lt_of_succ_lt_succ h) (Nat.lt_of_succ_lt_succ hys)
  | case5 maxlen x xs y ys hne => exact fun e => hne (Option.some.inj e)

/-- The length of the match at distance `k` behind position `p` (42_lz77.md R131). -/
abbrev matchAt (data : List Byte) (lookahead p k : Nat) : Nat :=
  matchLen (min lookahead (data.length - p)) (data.drop (p - k)) (data.drop p)

/-! ### The search over the distances (42_lz77.md R131, R132) -/

section
variable (data : List Byte) (p maxlen : Nat)

/-- The search answers a match at least as long as the one it starts from and as any candidate. -/
theorem searchMatch_longest (ds : List Nat) (best boff : Nat) :
    best ≤ (searchMatch data p maxlen ds best boff).1 ∧
      ∀ d ∈ ds, matchLen maxlen (data.drop (p - d)) (data.drop p) ≤ (searchMatch data p maxlen ds best boff).1 := by
  induction ds generalizing best boff with
  | nil => exact ⟨le_rfl, fun d hd => absurd hd List.not_mem_nil⟩
  | cons d ds ih =>
    simp only [searchMatch, List.forall_mem_cons]
    split
    next hlt =>
      obtain ⟨hbest, hds⟩ := ih (matchLen maxlen (data.drop (p - d)) (data.drop p)) d
      exact ⟨hlt.le.trans hbest, hbest, hds⟩
    next hle =>
      obtain ⟨hbest, hds⟩ := ih best boff
      exact ⟨hbest, (Nat.not_lt.mp hle).trans hbest, hds⟩

/-- The search over ascending distances keeps the match it starts from, or answers a longer one at a candidate that
every nearer candidate falls short of: a tie does not replace the match found first. -/
theorem searchMatch_nearest {ds : List Nat} (hds : ds.Pairwise (· < ·)) (best boff : Nat) :
    let m := searchMatch data p maxlen ds best boff
    m = (best, boff) ∨
      (best < m.1 ∧ m.2 ∈ ds ∧ matchLen maxlen (data.drop (p - m.2)) (data.drop p) = m.1 ∧
        ∀ d ∈ ds, d < m.2 → matchLen maxlen (data.drop (p - d)) (data.drop p) < m.1) := by
  induction ds generalizing best boff with
  | nil => exact .inl rfl
  | cons d ds ih =>
    obtain ⟨hd, hds⟩ := List.pairwise_cons.mp hds
    simp only [searchMatch, List.forall_mem_cons]
    split
    next hlt =>
      rcases ih hds (matchLen maxlen (data.drop (p - d)) (data.drop p)) d with heq | ⟨hbest, hmem, hlen, hnear⟩
      · rw [heq]
        exact .inr ⟨hlt, List.mem_cons_self, rfl, fun h => absurd h (lt_irrefl d),
          fun k hk h => absurd h (hd k hk).not_gt⟩
      · exact .inr ⟨hlt.trans hbest, List.mem_cons_of_mem d hmem, hlen, fun _ => hbest, hnear⟩
    next hle =>
      rcases ih hds best boff with heq | ⟨hbest, hmem, hlen, hnear⟩
      · exact .inl heq
      · exact .inr ⟨hbest, List.mem_cons_of_mem d hmem, hlen, fun _ => (Nat.not_lt.mp hle).trans_lt hbest, hnear⟩

end

section
variable (data : List Byte) (window lookahead p : Nat)

/-- The match chosen at a position is at least as long as the match at any distance in the window. -/
theorem matchAt_le_longestMatch {k : Nat} (h1 : 1 ≤ k) (hk : k ≤ min window p) :
    matchAt data lookahead p k ≤ (longestMatch data window lookahead p).1 :=
  (searchMatch_longest data p _ _ 0 0).2 k (List.mem_range'_1.mpr ⟨h1, by omega⟩)

/-- No match, or the nearest of the longest matches (42_lz77.md R132). -/
theorem longestMatch_cases :
    let m := longestMatch data window lookahead p
    m = (0, 0) ∨
      (0 < m.1 ∧ (1 ≤ m.2 ∧ m.2 ≤ min window p) ∧ matchAt data lookahead p m.2 = m.1 ∧
        ∀ k : Nat, 1 ≤ k → k < m.2 → matchAt data lookahead p k < m.1) := by
  rcases searchMatch_nearest data p (min lookahead (data.length - p)) (List.pairwise_lt_range' (s := 1)
    (n := min window p)) 0 0 with heq | ⟨hpos, hmem, hlen, hnear⟩
  · exact .inl heq
  · obtain ⟨h1, hle⟩ := List.mem_range'_1.mp hmem
    exact .inr ⟨hpos, ⟨h1, by unfold longestMatch; omega⟩, hlen,
      fun k hk hlt => hnear k (List.mem_range'_1.mpr ⟨hk, hlt.trans hle⟩) hlt⟩

/-- The match chosen stays inside the lookahead and the data. -/
theorem longestMatch_length_le :
    (longestMatch data window lookahead p).1 ≤ min lookahead (data.length - p) := by
  rcases longestMatch_cases data window lookahead p with heq | ⟨_, _, hlen, _⟩
  · rw [heq]; exact Nat.zero_le _
  · rw [← hlen]; exact matchLen_le _ _ _

/-- The distance of the match chosen stays inside the window and the data before the position. -/
theorem longestMatch_offset_le : (longestMatch data window lookahead p).2 ≤ min window p := by
  rcases longestMatch_cases data window lookahead p with heq | ⟨_, ⟨_, hle⟩, _⟩
  · rw [heq]; exact Nat.zero_le _
  · exact hle

/-- A match is at a distance, and where there is none the distance is 0 (42_lz77.md R130). -/
theorem longestMatch_eq_zero_iff :
    (longestMatch data window lookahead p).1 = 0 ↔ (longestMatch data window lookahead p).2 = 0 := by
  rcases longestMatch_cases data window lookahead p with heq | ⟨hpos, ⟨h1, _⟩, _⟩
  · rw [heq]
  · omega

/-- The bytes of the match chosen are those at its distance behind. -/
theorem longestMatch_agree {j : Nat} (h : j < (longestMatch data window lookahead p).1) :
    data[p - (longestMatch data window lookahead p).2 + j]? = data[p + j]? := by
  rcases longestMatch_cases data window lookahead p with heq | ⟨_, _, hlen, _⟩
  · rw [heq] at h; cases h
  · rw [← hlen] at h
    simpa only [List.getElem?_drop] using matchLen_agree h

/-! ### The tokens (42_lz77.md R131, R133) -/

/-- The token of position `p`: the match chosen there and the byte that follows it. Where there is no match this is
the literal token. -/
def matchToken : Token :=
  let m := longestMatch data window lookahead p
  ⟨BitVec.ofNat 16 m.2, BitVec.ofNat 16 m.1, data.getD (p + m.1) 0#8⟩

end

section
variable {data : List Byte} {window lookahead p : Nat}

theorem lzTokensFrom_of_le (fuel : Nat) (h : data.length ≤ p) : lzTokensFrom data window lookahead fuel p = [] := by
  cases fuel with
  | zero => rfl
  | succ fuel => rw [lzTokensFrom, if_neg (Nat.not_lt.mpr h)]

/-- The tokens from a position inside the data: the token of that position, then those from the position after it. -/
theorem lzTokensFrom_cons (fuel : Nat) (h : p < data.length) :
    lzTokensFrom data window lookahead (fuel + 1) p = matchToken data window lookahead p ::
      lzTokensFrom data window lookahead fuel (p + (longestMatch data window lookahead p).1 + 1) := by
  simp only [lzTokensFrom, if_pos h, matchToken]
  split
  next hzero =>
    rw [hzero, (longestMatch_eq_zero_iff _ _ _ _).mp hzero]
    rfl
  next => rfl

/-- Lengths fit their 16 bits because the lookahead does. -/
theorem matchToken_length (hlook : lookahead < 65536) :
    (matchToken data window lookahead p).length.toNat = (longestMatch data window lookahead p).1 :=
  toNat_ofNat_of_lt (by have := longestMatch_length_le data window lookahead p; omega)

/-- Offsets fit their 16 bits because the window does. -/
theorem matchToken_offset (hwin : window < 65536) :
    (matchToken data window lookahead p).offset.toNat = (longestMatch data window lookahead p).2 :=
  toNat_ofNat_of_lt (by have := longestMatch_offset_le data window lookahead p; omega)

theorem matchToken_next : (matchToken data window lookahead p).next =
    data.getD (p + (longestMatch data window lookahead p).1) 0#8 := rfl

/-- Every token is a literal token or a match token inside the window and the lookahead (42_lz77.md R130, R141). -/
theorem matchToken_literal_or_match (hwin : window < 65536) (hlook : lookahead < 65536) :
    let t := matchToken data window lookahead p
    (t.length = 0#16 ∧ t.offset = 0#16) ∨
      (t.length ≠ 0#16 ∧ t.offset ≠ 0#16 ∧ t.offset.toNat ≤ window ∧ t.length.toNat ≤ lookahead) := by
  have hlen := matchToken_length (data := data) (window := window) (p := p) hlook
  have hoff := matchToken_offset (data := data) (lookahead := lookahead) (p := p) hwin
  have hzero := longestMatch_eq_zero_iff data window lookahead p
  have hlenle := longestMatch_length_le data window lookahead p
  have hoffle := longestMatch_offset_le data window lookahead p
  simp only [ne_eq, ← BitVec.toNat_inj, hlen, hoff, BitVec.toNat_ofNat, Nat.zero_mod]
  omega

/-- The number of bytes that tokens stand for, the sentinel counted as one (42_lz77.md R131, R133). -/
def covered (toks : List Token) : Nat := (toks.map fun t => t.length.toNat + 1).sum

theorem covered_cons (t : Token) (ts : List Token) : covered (t :: ts) = t.length.toNat + 1 + covered ts := rfl

/-- Token `i` is the token of the position that the tokens before it lead to. -/
theorem lzTokensFrom_getElem? (hlook : lookahead < 65536) {fuel i : Nat} {t : Token}
    (h : (lzTokensFrom data window lookahead fuel p)[i]? = some t) :
    p + covered ((lzTokensFrom data window lookahead fuel p).take i) < data.length ∧
      t = matchToken data window lookahead
        (p + covered ((lzTokensFrom data window lookahead fuel p).take i)) := by
  induction fuel generalizing p i with
  | zero => cases h
  | succ fuel ih =>
    rcases Nat.lt_or_ge p data.length with hp | hp
    · rw [lzTokensFrom_cons fuel hp] at h ⊢
      cases i with
      | zero => exact ⟨hp, (Option.some.inj h).symm⟩
      | succ i =>
        rw [List.take_succ_cons, covered_cons, matchToken_length hlook, ← Nat.add_assoc, ← Nat.add_assoc]
        exact ih h
    · rw [lzTokensFrom_of_le _ hp] at h
      cases h

/-- With a token's worth of fuel for every byte, the tokens cover the data. -/
theorem le_covered_lzTokensFrom (hlook : lookahead < 65536) {fuel : Nat} (hfuel : data.length ≤ p + fuel) :
    data.length ≤ p + covered (lzTokensFrom data window lookahead fuel p) := by
  induction fuel generalizing p with
  | zero => exact hfuel.trans (Nat.add_le_add_left (Nat.zero_le _) p)
  | succ fuel ih =>
    rcases Nat.lt_or_ge p data.length with hp | hp
    · rw [lzTokensFrom_cons fuel hp, covered_cons, matchToken_length hlook, ← Nat.add_assoc, ← Nat.add_assoc]
      exact ih (by omega)
    · exact hp.trans (Nat.le_add_right _ _)

end

/-- Settles O30: the facts about the match chosen at a position, and the tokens as the matches chosen one after the
other. -/
theorem longestNearestMatch : Obligations.LongestNearestMatch := by
  intro d window lookahead hwin hlook toks position
  have hposition : ∀ i, position i = 0 + covered (toks.take i) := fun i => (Nat.zero_add _).symm
  have htok : ∀ (i : Nat) (t : Token), toks[i]? = some t →
      position i < d.length ∧ t = matchToken d window lookahead (position i) := fun i t h => by
    rw [hposition]
    exact lzTokensFrom_getElem? hlook h
  refine ⟨?chosen, ?tokens, ?cover, ?forms⟩
  case chosen =>
    intro p hp most len m
    refine ⟨fun k h1 hk => ⟨matchLen_le _ _ _, fun j hj => ?_, fun hlt => ?_, ?_⟩, fun hm => ?_⟩
    · simpa only [List.getElem?_drop] using matchLen_agree hj
    · simpa only [List.getElem?_drop] using matchLen_maximal hlt (by
        rw [List.length_drop]
        exact hlt.trans_le (Nat.min_le_right _ _))
    · exact matchAt_le_longestMatch d window lookahead p h1 hk
    · rcases longestMatch_cases d window lookahead p with heq | ⟨_, ⟨h1, hle⟩, hlen, hnear⟩
      · exact absurd (congrArg Prod.fst heq) hm
      · exact ⟨h1, hle, hlen, hnear⟩
  case tokens =>
    intro i t h
    obtain ⟨hpos, rfl⟩ := htok i t h
    refine ⟨hpos, matchToken_length hlook, matchToken_offset hwin, ?_⟩
    rw [matchToken_length hlook, matchToken_next]
  case cover =>
    rw [hposition, List.take_length]
    exact le_covered_lzTokensFrom hlook (Nat.zero_add _).ge
  case forms =>
    intro t ht
    obtain ⟨i, hi⟩ := List.mem_iff_getElem?.mp ht
    obtain ⟨_, rfl⟩ := htok i t hi
    exact matchToken_literal_or_match hwin hlook

/-! ### The command `LZ.COMP` (42_lz77.md R134) -/

/-- `LZ.COMP` with the tokens inside the table (42_lz77.md R134). -/
theorem lzComp_done {s : State} (hs : Ready s) (hsrc : s.srcLen.toNat ≤ s.cap.bufCap)
    (htok : (lzCompress (bufferBytes s .src) s.window.toNat s.lookahead.toNat).length ≤ s.cap.tokCap) :
    exec .lzComp s =
      .next (putTokens (lzCompress (bufferBytes s .src) s.window.toNat s.lookahead.toNat) s) := by
  refine command_done hs ?_
  simp only [sourceBytes_ok hsrc, if_neg (Nat.not_lt.mpr htok)]

/-- Settles O26: the tokens written over the table, or their number as the detail of the error. -/
theorem lzCompResult : Obligations.LzCompResult := by
  intro s hs _ hsrc toks
  have hlen : toks.length < 2 ^ 64 :=
    (sourceBytes_length s ▸ lzCompress_length_le _ _ _ : toks.length ≤ s.srcLen.toNat).trans_lt s.srcLen.isLt
  refine ⟨fun htok => ⟨_, lzComp_done hs hsrc htok, rfl, toNat_ofNat_of_lt hlen, fun k hk => ?_, fun k hk => ?_⟩,
    fun htok => ⟨_, command_errored hs (k := .memoryError) (u := failTokens s) hlen ?_, rfl⟩⟩
  · exact (get?_overwrite _ _ k).trans (if_pos hk)
  · exact (get?_overwrite _ _ k).trans (if_neg (Nat.not_lt.mpr hk))
  · simp only [sourceBytes_ok hsrc]
    exact if_pos htok

/-! ### Token records (42_lz77.md R137, R139) -/

/-- A 16-bit number is read back from its two bytes (42_lz77.md R139). -/
theorem fromBe16_be16 (v : BitVec 16) : fromBe16 (v.extractLsb' 8 8) (v.extractLsb' 0 8) = v :=
  (BitVec.extractLsb'_append_extractLsb'_eq_extractLsb' (show 8 = 0 + 8 from rfl)).trans BitVec.extractLsb'_eq_self

theorem parseTokens_tokensToBytes (toks : List Token) : parseTokens (tokensToBytes toks) = toks := by
  induction toks with
  | nil => rfl
  | cons t ts ih =>
    show ⟨fromBe16 _ _, fromBe16 _ _, t.next⟩ :: parseTokens (tokensToBytes ts) = t :: ts
    rw [fromBe16_be16, fromBe16_be16, ih]

/-- Settles O31: every record is whole and reads back to its token. -/
theorem tokenBytesRoundTrip : Obligations.TokenBytesRoundTrip := fun toks => by
  refine ⟨tokensToBytes_length toks, ?_⟩
  rw [bytesToTokens, tokensToBytes_length, if_pos (Nat.mul_mod_right 5 _), parseTokens_tokensToBytes]

end Sys2Proof.Proofs
end

/-! ## The replay of LZ77 tokens -/

section

namespace Sys2Proof.Proofs

open Sys2Proof.Machine Sys2Proof.Laws Sys2Proof.Claims

/-! ### The copied match (42_lz77.md R135)

The model holds the output newest byte first; here it stands in the order of `DST`. -/

/-- The output `out` followed by `l` bytes, each copied from `o` bytes behind. -/
def copyMatch (o : Nat) : Nat → List Byte → List Byte
  | 0, out => out
  | l + 1, out => copyMatch o l (out ++ [out.reverse.getD (o - 1) 0#8])

theorem appendOut_ok {bufCap : Nat} {out : List Byte} (x : Byte) (h : out.length < bufCap) :
    appendOut bufCap out x = .ok (x :: out) := if_pos h

theorem appendOut_full {bufCap : Nat} {out : List Byte} (x : Byte) (h : bufCap ≤ out.length) :
    appendOut bufCap out x = .error ⟨.memoryError, bufCap⟩ := if_neg (Nat.not_lt.mpr h)

theorem copyBack_ok {bufCap o l : Nat} {out : List Byte} (h : out.length + l ≤ bufCap) :
    copyBack bufCap o l out.reverse = .ok (copyMatch o l out).reverse := by
  induction l generalizing out with
  | zero => rfl
  | succ l ih =>
    have hroom : out.reverse.length < bufCap := by rw [List.length_reverse]; omega
    simp only [copyBack, appendOut_ok _ hroom, ← List.reverse_concat]
    exact ih (by rw [List.length_append, List.length_singleton]; omega)

theorem copyBack_full {bufCap o l : Nat} {out : List Byte} (hout : out.length ≤ bufCap)
    (h : bufCap < out.length + l) : copyBack bufCap o l out = .error ⟨.memoryError, bufCap⟩ := by
  induction l generalizing out with
  | zero => omega
  | succ l ih =>
    rcases hout.eq_or_lt with hfull | hroom
    · simp only [copyBack, appendOut_full _ hfull.ge]
    · simp only [copyBack, appendOut_ok _ hroom]
      exact ih hroom (by rw [List.length_cons]; omega)

/-- The byte `o` behind the end of the output. -/
theorem getElem?_behind {o : Nat} {out : List Byte} (h1 : 1 ≤ o) (ho : o ≤ out.length) :
    out[out.length - o]? = some (out.reverse.getD (o - 1) 0#8) := by
  rw [List.getD_eq_getElem?_getD, List.getElem?_reverse (by omega),
    show out.length - 1 - (o - 1) = out.length - o by omega, List.getElem?_eq_getElem (by omega), Option.getD_some]

@[simp] theorem copyMatch_length (o l : Nat) (out : List Byte) : (copyMatch o l out).length = out.length + l := by
  induction l generalizing out with
  | zero => rfl
  | succ l ih => rw [copyMatch, ih, List.length_append, List.length_singleton, Nat.add_assoc, Nat.add_comm 1]

theorem copyMatch_extends (o l : Nat) (out : List Byte) : out <+: copyMatch o l out := by
  induction l generalizing out with
  | zero => exact List.prefix_rfl
  | succ l ih => exact (List.prefix_append _ _).trans (ih _)

/-- Every byte of the match is the one `o` bytes before it, which may itself be a byte of the match. -/
theorem copyMatch_getElem? {o l j : Nat} {out : List Byte} (h1 : 1 ≤ o) (ho : o ≤ out.length) (hj : j < l) :
    (copyMatch o l out)[out.length + j]? = (copyMatch o l out)[out.length + j - o]? := by
  induction l generalizing out j with
  | zero => cases hj
  | succ l ih =>
    rw [copyMatch]
    generalize hx : out.reverse.getD (o - 1) 0#8 = x
    have hlen : (out ++ [x]).length = out.length + 1 := List.length_append
    cases j with
    | zero =>
      have hbehind := getElem?_behind h1 ho
      obtain ⟨rest, hrest⟩ := copyMatch_extends o l (out ++ [x])
      rw [Nat.add_zero, ← hrest, List.append_assoc, List.getElem?_append_left (show out.length - o < _ by omega),
        hbehind, hx]
      simp
    | succ j =>
      have hnext := ih (out := out ++ [x]) (j := j) (by rw [hlen]; omega) (Nat.lt_of_succ_lt_succ hj)
      rwa [hlen, Nat.add_right_comm, Nat.add_assoc] at hnext

/-- Copying a match of the data extends what was replayed of it. -/
theorem copyMatch_take {data : List Byte} {o l p : Nat} (ho : l ≠ 0 → 1 ≤ o ∧ o ≤ p) (hp : p + l ≤ data.length)
    (hagree : ∀ j < l, data[p - o + j]? = data[p + j]?) : copyMatch o l (data.take p) = data.take (p + l) := by
  induction l generalizing p with
  | zero => rfl
  | succ l ih =>
    obtain ⟨h1, hop⟩ := ho l.succ_ne_zero
    have hlen : (data.take p).length = p := List.length_take_of_le (by omega)
    have hbehind := getElem?_behind h1 (hlen.symm ▸ hop)
    rw [hlen, List.getElem?_take_of_lt (by omega)] at hbehind
    have hbyte : data[p]? = some ((data.take p).reverse.getD (o - 1) 0#8) :=
      (hagree 0 l.succ_pos).symm.trans hbehind
    have hext : data.take p ++ [(data.take p).reverse.getD (o - 1) 0#8] = data.take (p + 1) := by
      rw [List.take_add_one, hbyte]
      rfl
    have hnext : ∀ j < l, data[p + 1 - o + j]? = data[p + 1 + j]? := fun j hj => by
      have := hagree (j + 1) (Nat.succ_lt_succ hj)
      rwa [show p - o + (j + 1) = p + 1 - o + j by omega, show p + (j + 1) = p + 1 + j by omega] at this
    rw [copyMatch, hext, ih (fun _ => ⟨h1, by omega⟩) (by omega) hnext, Nat.add_right_comm, Nat.add_assoc]

/-! ### The replay, token by token (42_lz77.md R135) -/

/-- The token refers to bytes that are not there. -/
abbrev Corrupt (out : List Byte) (t : Token) : Prop :=
  out.length < t.offset.toNat ∨ (t.length ≠ 0#16 ∧ t.offset = 0#16)

/-- The `next` of token `t`, before the tokens `ts`, is the sentinel that bounded mode drops. -/
abbrev Sentinel (bound : Bool) (origlen : Nat) (out : List Byte) (t : Token) (ts : List Token) : Prop :=
  bound = true ∧ ts = [] ∧ t.length ≠ 0#16 ∧ t.next = 0#8 ∧ out.length + t.length.toNat = origlen

/-- The output after token `t`, its `next` left out. -/
abbrev copied (out : List Byte) (t : Token) : List Byte := copyMatch t.offset.toNat t.length.toNat out

theorem copied_length (out : List Byte) (t : Token) : (copied out t).length = out.length + t.length.toNat :=
  copyMatch_length _ _ _

/-- The replay of the tokens from index `i` on after the output `out`. -/
def replayFrom (bufCap : Nat) (bound : Bool) (origlen i : Nat) (out : List Byte) (toks : List Token) :
    Except CmdError (List Byte) :=
  (lzReplay bufCap bound origlen i out.reverse toks).map List.reverse

section
variable {bufCap : Nat} {bound : Bool} {origlen i : Nat} {out : List Byte} {t : Token} {ts : List Token}

theorem replayFrom_nil : replayFrom bufCap bound origlen i out [] = .ok out := by
  rw [replayFrom, lzReplay, Except.map, List.reverse_reverse]

theorem replayFrom_corrupt (h : Corrupt out t) :
    replayFrom bufCap bound origlen i out (t :: ts) = .error ⟨.corruptToken, i⟩ := by
  rw [replayFrom, lzReplay, List.length_reverse]
  rcases h with h | h
  · rw [if_pos h]; rfl
  · rw [if_pos h, ite_self]; rfl

/-- A token that is not corrupt, its match inside the capacity. -/
theorem replayFrom_copied (h : ¬ Corrupt out t) (hroom : out.length + t.length.toNat ≤ bufCap) :
    replayFrom bufCap bound origlen i out (t :: ts) =
      if Sentinel bound origlen out t ts then .ok (copied out t)
      else if out.length + t.length.toNat = bufCap then .error ⟨.memoryError, bufCap⟩
      else replayFrom bufCap bound origlen (i + 1) (copied out t ++ [t.next]) ts := by
  obtain ⟨hoffset, hmatch⟩ := not_or.mp h
  rw [replayFrom, lzReplay, List.length_reverse, if_neg hoffset, if_neg hmatch, copyBack_ok hroom]
  have hlen : (copied out t).reverse.length = out.length + t.length.toNat := by
    rw [List.length_reverse, copied_length]
  simp only [hlen]
  by_cases hs : Sentinel bound origlen out t ts
  · rw [if_pos hs, if_pos hs, Except.map, List.reverse_reverse]
  rw [if_neg hs, if_neg hs]
  rcases hroom.eq_or_lt with hfull | hroom
  · rw [appendOut_full _ (hlen.trans hfull).ge, if_pos hfull]
    rfl
  · rw [appendOut_ok _ (hlen.trans_lt hroom), if_neg hroom.ne, replayFrom, List.reverse_concat]

theorem replayFrom_match_full (h : ¬ Corrupt out t) (hout : out.length ≤ bufCap)
    (hfull : bufCap < out.length + t.length.toNat) :
    replayFrom bufCap bound origlen i out (t :: ts) = .error ⟨.memoryError, bufCap⟩ := by
  obtain ⟨hoffset, hmatch⟩ := not_or.mp h
  rw [replayFrom, lzReplay, List.length_reverse, if_neg hoffset, if_neg hmatch,
    copyBack_full (by rwa [List.length_reverse]) (by rwa [List.length_reverse])]
  rfl

/-- A sentinel ends the replay. -/
theorem replayFrom_sentinel (h : ¬ Corrupt out t) (hroom : out.length + t.length.toNat ≤ bufCap)
    (hs : Sentinel bound origlen out t ts) :
    replayFrom bufCap bound origlen i out (t :: ts) = .ok (copied out t) := by
  rw [replayFrom_copied h hroom, if_pos hs]

/-- The match or the byte after it does not fit. -/
theorem replayFrom_full (h : ¬ Corrupt out t) (hout : out.length ≤ bufCap)
    (hfull : bufCap < out.length + t.length.toNat ∨
      (bufCap = out.length + t.length.toNat ∧ ¬ Sentinel bound origlen out t ts)) :
    replayFrom bufCap bound origlen i out (t :: ts) = .error ⟨.memoryError, bufCap⟩ := by
  rcases hfull with hfull | ⟨hfull, hs⟩
  · exact replayFrom_match_full h hout hfull
  · rw [replayFrom_copied h hfull.ge, if_neg hs, if_pos hfull.symm]

/-- The match and the byte after it fit. -/
theorem replayFrom_next (h : ¬ Corrupt out t) (hroom : out.length + t.length.toNat < bufCap)
    (hs : ¬ Sentinel bound origlen out t ts) :
    replayFrom bufCap bound origlen i out (t :: ts) =
      replayFrom bufCap bound origlen (i + 1) (copied out t ++ [t.next]) ts := by
  rw [replayFrom_copied h hroom.le, if_neg hs, if_neg hroom.ne]

/-- A legacy replay that succeeds has taken its first token as the spec says. -/
theorem replayFrom_legacy_ok {out' : List Byte} (hout : out.length ≤ bufCap)
    (h : replayFrom bufCap false origlen i out (t :: ts) = .ok out') :
    ¬ Corrupt out t ∧ out.length + t.length.toNat < bufCap ∧
      replayFrom bufCap false origlen (i + 1) (copied out t ++ [t.next]) ts = .ok out' := by
  have hs : ¬ Sentinel false origlen out t ts := fun hs => Bool.false_ne_true hs.1
  by_cases hc : Corrupt out t
  · rw [replayFrom_corrupt hc] at h; cases h
  · rcases Nat.lt_or_ge (out.length + t.length.toNat) bufCap with hroom | hfull
    · rw [replayFrom_next hc hroom hs] at h
      exact ⟨hc, hroom, h⟩
    · rw [replayFrom_full hc hout (hfull.lt_or_eq.imp_right fun e => ⟨e, hs⟩)] at h
      cases h

end

/-- A legacy replay of the tokens `toks` to `out` ended in a byte 0 that bounded mode would drop. -/
abbrev EndsInSentinel (origlen : Nat) (toks : List Token) (out : List Byte) : Prop :=
  out.length = origlen + 1 ∧ ∃ t : Token, toks.getLast? = some t ∧ t.length ≠ 0#16 ∧ t.next = 0#8

/-- The replay in either mode after tokens that the legacy replay takes to `out'` goes on from `out'`; the mode
matters for the last token alone. -/
theorem replayFrom_append {bufCap : Nat} {bound : Bool} {n origlen i : Nat} {out out' : List Byte}
    {toks ts : List Token} (hout : out.length ≤ bufCap) (htoks : replayFrom bufCap false n i out toks = .ok out')
    (hend : bound = true → ts = [] → ¬ EndsInSentinel origlen toks out') :
    replayFrom bufCap bound origlen i out (toks ++ ts) =
      replayFrom bufCap bound origlen (i + toks.length) out' ts := by
  induction toks generalizing i out with
  | nil =>
    rw [replayFrom_nil] at htoks
    cases htoks
    rfl
  | cons t toks ih =>
    obtain ⟨hc, hroom, hrest⟩ := replayFrom_legacy_ok hout htoks
    have hlen : (copied out t ++ [t.next]).length = out.length + t.length.toNat + 1 := by simp
    have hs : ¬ Sentinel bound origlen out t (toks ++ ts) := by
      rintro ⟨hb, hnil, hmatch, hnext, horig⟩
      obtain ⟨rfl, rfl⟩ := List.append_eq_nil_iff.mp hnil
      rw [replayFrom_nil] at hrest
      cases hrest
      exact hend hb rfl ⟨by rw [hlen, horig], t, rfl, hmatch, hnext⟩
    have hend' : bound = true → ts = [] → ¬ EndsInSentinel origlen toks out' := by
      rintro hb hts ⟨horig, u, hlast, hu⟩
      exact hend hb hts ⟨horig, u, by rw [List.getLast?_cons, hlast]; rfl, hu⟩
    rw [List.cons_append, replayFrom_next hc hroom hs, ih (by omega) hrest hend', List.length_cons,
      Nat.add_right_comm, Nat.add_assoc]

/-- The replay in either mode of tokens that the legacy replay takes to `out'`. -/
theorem replayFrom_of_legacy {bufCap : Nat} {bound : Bool} {n origlen i : Nat} {out out' : List Byte}
    {toks : List Token} (hout : out.length ≤ bufCap) (h : replayFrom bufCap false n i out toks = .ok out')
    (hend : bound = true → ¬ EndsInSentinel origlen toks out') :
    replayFrom bufCap bound origlen i out toks = .ok out' := by
  rw [← List.append_nil toks, replayFrom_append hout h fun hb _ => hend hb, replayFrom_nil]

/-! ### `lz_decompress` (42_lz77.md R135) -/

section
variable {bufCap : Nat} {bound : Bool} {origlen : Nat} {out : List Byte} {toks : List Token}

theorem lzDecompress_error {e : CmdError} (h : replayFrom bufCap bound origlen 0 [] toks = .error e) :
    lzDecompress bufCap bound origlen toks = .error e := by
  rw [replayFrom, List.reverse_nil] at h
  rw [lzDecompress]
  cases hr : lzReplay bufCap bound origlen 0 [] toks with
  | error e' => rw [hr] at h; cases h; rfl
  | ok out' => rw [hr] at h; cases h

/-- After the replay, bounded mode checks the length. -/
theorem lzDecompress_of_replay (h : replayFrom bufCap bound origlen 0 [] toks = .ok out) :
    lzDecompress bufCap bound origlen toks =
      if bound = true ∧ out.length ≠ origlen then .error ⟨.decompressionFailed, out.length⟩ else .ok out := by
  rw [replayFrom, List.reverse_nil] at h
  rw [lzDecompress]
  cases hr : lzReplay bufCap bound origlen 0 [] toks with
  | error e' => rw [hr] at h; cases h
  | ok out' =>
    rw [hr] at h
    cases h
    simp only [List.length_reverse]

theorem lzDecompress_ok (h : replayFrom bufCap bound origlen 0 [] toks = .ok out)
    (hlen : bound = true → out.length = origlen) : lzDecompress bufCap bound origlen toks = .ok out := by
  rw [lzDecompress_of_replay h, if_neg fun hb => hb.2 (hlen hb.1)]

theorem lzDecompress_wrong_length (h : replayFrom bufCap true origlen 0 [] toks = .ok out)
    (hlen : out.length ≠ origlen) :
    lzDecompress bufCap true origlen toks = .error ⟨.decompressionFailed, out.length⟩ := by
  rw [lzDecompress_of_replay h, if_pos ⟨rfl, hlen⟩]

theorem lzDecompress_legacy (bufCap origlen : Nat) (toks : List Token) :
    lzDecompress bufCap false origlen toks = replayFrom bufCap false origlen 0 [] toks := by
  cases h : replayFrom bufCap false origlen 0 [] toks with
  | error e => exact lzDecompress_error h
  | ok out => exact lzDecompress_ok h fun hb => absurd hb Bool.false_ne_true

end

/-! ### Fidelity (42_lz77.md R141) -/

section
variable {data : List Byte} {window lookahead p : Nat}

theorem not_corrupt_matchToken (hwin : window < 65536) (hlook : lookahead < 65536) (hp : p ≤ data.length) :
    ¬ Corrupt (data.take p) (matchToken data window lookahead p) := by
  have hzero := longestMatch_eq_zero_iff data window lookahead p
  have hle := longestMatch_offset_le data window lookahead p
  simp only [Corrupt, ne_eq, ← BitVec.toNat_inj, matchToken_length hlook, matchToken_offset hwin,
    List.length_take_of_le hp, BitVec.toNat_ofNat, Nat.zero_mod]
  omega

/-- The token of a position copies the bytes of its match. -/
theorem copied_matchToken (hwin : window < 65536) (hlook : lookahead < 65536) (hp : p ≤ data.length) :
    copied (data.take p) (matchToken data window lookahead p) =
      data.take (p + (longestMatch data window lookahead p).1) := by
  have hzero := longestMatch_eq_zero_iff data window lookahead p
  have hoff := longestMatch_offset_le data window lookahead p
  have hlen := longestMatch_length_le data window lookahead p
  rw [copied, matchToken_length hlook, matchToken_offset hwin]
  exact copyMatch_take (by omega) (by omega) fun j hj => longestMatch_agree data window lookahead p hj

theorem take_length_add_matchToken (hlook : lookahead < 65536) (hp : p ≤ data.length) :
    (data.take p).length + (matchToken data window lookahead p).length.toNat =
      p + (longestMatch data window lookahead p).1 := by
  rw [List.length_take_of_le hp, matchToken_length hlook]

end

section
variable {data : List Byte} {window lookahead bufCap origlen : Nat} {bound : Bool}
  (hwin : window < 65536) (hlook : lookahead < 65536) (hcap : data.length ≤ bufCap)
  (hbounded : bound = true → origlen = data.length)
include hwin hlook hcap hbounded

/-- A token whose `next` is a byte of the data takes the replay to the position after that byte. -/
theorem replayFrom_matchToken_inside {i p : Nat} {ts : List Token}
    (hnext : p + (longestMatch data window lookahead p).1 < data.length) :
    replayFrom bufCap bound origlen i (data.take p) (matchToken data window lookahead p :: ts) =
      replayFrom bufCap bound origlen (i + 1)
        (data.take (p + (longestMatch data window lookahead p).1 + 1)) ts := by
  have hp : p ≤ data.length := by omega
  have hlen := take_length_add_matchToken (window := window) hlook hp
  have hs : ¬ Sentinel bound origlen (data.take p) (matchToken data window lookahead p) ts := by
    rintro ⟨hb, _, _, _, horig⟩
    exact hnext.ne (hlen.symm.trans (horig.trans (hbounded hb)))
  rw [replayFrom_next (not_corrupt_matchToken hwin hlook hp) (hlen ▸ hnext.trans_le hcap) hs,
    copied_matchToken hwin hlook hp, matchToken_next, List.take_add_one, List.getElem?_eq_getElem hnext,
    List.getD_eq_getElem _ _ hnext]
  rfl

/-- A match that ends with the data is followed by the sentinel, which the replay drops in bounded mode
(42_lz77.md R133, R135). -/
theorem replayFrom_matchToken_end {i p : Nat} (hlegacy : bound = false → data.length < bufCap) (hp : p < data.length)
    (hend : p + (longestMatch data window lookahead p).1 = data.length) :
    ∃ rest : List Byte, (rest = [] ∨ (bound = false ∧ rest = [0#8])) ∧
      replayFrom bufCap bound origlen i (data.take p) [matchToken data window lookahead p] = .ok (data ++ rest) := by
  have hc := not_corrupt_matchToken hwin hlook hp.le
  have hlen := (take_length_add_matchToken (window := window) hlook hp.le).trans hend
  have hcopied := copied_matchToken hwin hlook hp.le
  have hsentinel : (matchToken data window lookahead p).next = 0#8 := by
    rw [matchToken_next, hend, List.getD_eq_default _ _ le_rfl]
  rw [hend, List.take_length] at hcopied
  cases bound with
  | true =>
    have hmatch : (matchToken data window lookahead p).length ≠ 0#16 := fun h => by
      rw [h, List.length_take_of_le hp.le] at hlen
      exact hp.ne hlen
    refine ⟨[], .inl rfl, ?_⟩
    rw [replayFrom_sentinel hc (hlen.trans_le hcap) ⟨rfl, rfl, hmatch, hsentinel, hlen.trans (hbounded rfl).symm⟩,
      hcopied, List.append_nil]
  | false =>
    refine ⟨[0#8], .inr ⟨rfl, rfl⟩, ?_⟩
    rw [replayFrom_next hc (hlen.trans_lt (hlegacy rfl)) (fun hs => Bool.false_ne_true hs.1), hcopied, hsentinel,
      replayFrom_nil]

/-- The replay of the tokens from position `p` on, after the bytes before `p`, gives the data back, in legacy mode
followed by the sentinel when there is one. -/
theorem replayFrom_lzTokensFrom (hlegacy : bound = false → data.length < bufCap) {fuel i p : Nat}
    (hp : p ≤ data.length) (hfuel : data.length ≤ p + fuel) :
    ∃ rest : List Byte, (rest = [] ∨ (bound = false ∧ rest = [0#8])) ∧
      replayFrom bufCap bound origlen i (data.take p) (lzTokensFrom data window lookahead fuel p) =
        .ok (data ++ rest) := by
  induction fuel generalizing i p with
  | zero =>
    have hdone : data.take p = data := List.take_of_length_le hfuel
    exact ⟨[], .inl rfl, by rw [List.append_nil, hdone, lzTokensFrom, replayFrom_nil]⟩
  | succ fuel ih =>
    rcases hp.eq_or_lt with rfl | hlt
    · exact ⟨[], .inl rfl, by rw [List.append_nil, List.take_length, lzTokensFrom_of_le _ le_rfl, replayFrom_nil]⟩
    have hend : p + (longestMatch data window lookahead p).1 ≤ data.length := by
      have := longestMatch_length_le data window lookahead p
      omega
    rw [lzTokensFrom_cons fuel hlt]
    rcases hend.eq_or_lt with hend | hnext
    · rw [lzTokensFrom_of_le fuel (hend.symm.le.trans (Nat.le_succ _))]
      exact replayFrom_matchToken_end hwin hlook hcap hbounded hlegacy hlt hend
    · rw [replayFrom_matchToken_inside hwin hlook hcap hbounded hnext]
      exact ih hnext (by omega)

end

/-- Settles O29: the replay of all the tokens, from the empty output on. -/
theorem lzFidelity : Obligations.LzFidelity := by
  intro d window lookahead bufCap n hwin hlook
  refine ⟨fun hcap => ?bounded, fun hcap => ?legacy⟩
  case bounded =>
    obtain ⟨rest, hrest, hreplay⟩ := replayFrom_lzTokensFrom (bound := true) (i := 0) hwin hlook hcap (fun _ => rfl)
      (fun h => nomatch h) (Nat.zero_le _) (Nat.zero_add _).ge
    obtain rfl : rest = [] := hrest.resolve_right fun h => nomatch h.1
    rw [List.append_nil] at hreplay
    exact lzDecompress_ok hreplay fun _ => rfl
  case legacy =>
    obtain ⟨rest, hrest, hreplay⟩ := replayFrom_lzTokensFrom (bound := false) (origlen := n) (i := 0) hwin hlook
      hcap.le (fun h => nomatch h) (fun _ => hcap) (Nat.zero_le _) (Nat.zero_add _).ge
    rw [lzDecompress_legacy]
    rcases hrest with rfl | ⟨_, rfl⟩
    · exact .inl (hreplay.trans (by rw [List.append_nil]))
    · exact .inr hreplay

/-! ### The command `LZ.DECOMP` (42_lz77.md R136) -/

/-- A match that is not corrupt starts inside the output. -/
theorem offset_of_not_corrupt {out : List Byte} {t : Token} (h : ¬ Corrupt out t) (hmatch : 0 < t.length.toNat) :
    1 ≤ t.offset.toNat ∧ t.offset.toNat ≤ out.length := by
  simp only [Corrupt, ne_eq, ← BitVec.toNat_inj, BitVec.toNat_ofNat, Nat.zero_mod] at h
  omega

/-- What follows the match leaves the copied bytes as they are. -/
theorem copied_append_getElem? {out : List Byte} {t : Token} {j : Nat} (rest : List Byte) (h : ¬ Corrupt out t)
    (hj : j < t.length.toNat) :
    (copied out t ++ rest)[out.length + j]? = (copied out t ++ rest)[out.length + j - t.offset.toNat]? := by
  obtain ⟨h1, ho⟩ := offset_of_not_corrupt h (Nat.zero_lt_of_lt hj)
  have hlen := copied_length out t
  rw [List.getElem?_append_left (by omega), List.getElem?_append_left (by omega)]
  exact copyMatch_getElem? h1 ho hj

section
variable {s : State}

theorem lzDecomp_done {out : List Byte} (hs : Ready s) (htok : s.tokCnt.toNat ≤ s.cap.tokCap)
    (h : lzDecompress s.cap.bufCap (bounded s) s.origLen.toNat ((List.range s.tokCnt.toNat).map (tokenAt s)) =
      .ok out) : exec .lzDecomp s = .next (produced out s) := by
  refine command_done hs ?_
  simp only [tokenList_ok htok, h]
  rfl

theorem lzDecomp_errored {k : ErrorKind} {info : Nat} (hs : Ready s) (htok : s.tokCnt.toNat ≤ s.cap.tokCap)
    (hinfo : info < 2 ^ 64)
    (h : lzDecompress s.cap.bufCap (bounded s) s.origLen.toNat ((List.range s.tokCnt.toNat).map (tokenAt s)) =
      .error ⟨k, info⟩) :
    exec .lzDecomp s = .next (errored (errorCode k) (BitVec.ofNat 64 info) 0x31000000#32 (emptied s)) := by
  refine command_errored hs hinfo ?_
  simp only [tokenList_ok htok, h]
  rfl

end

/-- Settles O27: the command stores the replay or raises its error, and the replay in the mode of the command follows
the legacy replay up to the last token. -/
theorem lzDecompResult : Obligations.LzDecompResult := by
  intro s hs hcap cap toks raises
  have hbound : bounded s = true ↔ s.ctl = 1#1 := beq_iff_eq
  refine ⟨fun htok => command_invalidInput hs (by simp only [tokenList_error htok]; rfl), fun htok =>
    ⟨fun out h => lzDecomp_done hs htok h, fun e h hinfo => lzDecomp_errored hs htok hinfo h, ?token, ?whole⟩⟩
  case token =>
    intro pre post t out htoks hpre corrupt sentinel copies
    have hout : out.length ≤ cap := lzDecompress_fits hpre
    rw [lzDecompress_legacy] at hpre
    have hindex : pre.length < 2 ^ 64 := by
      have := congrArg List.length htoks
      simp only [toks, List.length_map, List.length_range, List.length_append, List.length_cons] at this
      omega
    have hrun : replayFrom cap (bounded s) s.origLen.toNat 0 [] toks =
        replayFrom cap (bounded s) s.origLen.toNat pre.length out (t :: post) := by
      
      rw [htoks, replayFrom_append (Nat.zero_le _) hpre (fun _ h => absurd h (List.cons_ne_nil t post)), Nat.zero_add]
    have hsentinel : Sentinel (bounded s) s.origLen.toNat out t post ↔ sentinel := and_congr_left' hbound
    have hextends (rest : List Byte) : out <+: copied out t ++ rest :=
      (copyMatch_extends _ _ _).trans (List.prefix_append _ _)
    refine ⟨fun hc => ?_, fun hc hfull => ?_, fun hc hroom => ?_, fun hc hroom hsent => ?_⟩
    · exact lzDecomp_errored hs htok hindex (lzDecompress_error (hrun.trans (replayFrom_corrupt hc)))
    · rw [← hsentinel] at hfull
      exact lzDecomp_errored hs htok (by omega) (lzDecompress_error (hrun.trans (replayFrom_full hc hout hfull)))
    · refine ⟨copied out t ++ [t.next], ?_, ⟨hextends _, fun j => copied_append_getElem? _ hc⟩, by simp, by simp⟩
      rw [lzDecompress_legacy, replayFrom_append (Nat.zero_le _) hpre (fun h => absurd h Bool.false_ne_true),
        replayFrom_next hc hroom (fun h => Bool.false_ne_true h.1), replayFrom_nil]
    · have hlen : (copied out t).length = s.origLen.toNat := by
        obtain ⟨_, _, _, _, horig⟩ := hsent
        rw [copied_length, horig]
      refine ⟨copied out t ++ [], ?_, ⟨hextends _, fun j => copied_append_getElem? _ hc⟩, by rwa [List.append_nil]⟩
      rw [List.append_nil]
      exact lzDecomp_done hs htok
        (lzDecompress_ok (hrun.trans (replayFrom_sentinel hc hroom (hsentinel.mpr hsent))) fun _ => hlen)
  case whole =>
    intro out hlegacy
    have hout : out.length ≤ cap := lzDecompress_fits hlegacy
    rw [lzDecompress_legacy] at hlegacy
    refine ⟨fun hlen => ?_, fun hctl hlen hend => ?_⟩
    · have hlen' : bounded s = true → out.length = s.origLen.toNat := fun hb =>
        hlen.resolve_left (not_not_intro (hbound.mp hb))
      refine lzDecomp_done hs htok (lzDecompress_ok (replayFrom_of_legacy (Nat.zero_le _) hlegacy ?_) hlen')
      rintro hb ⟨hlonger, _⟩
      have := hlen' hb
      omega
    · refine lzDecomp_errored (k := .decompressionFailed) hs htok (by omega) ?_
      rw [hbound.mpr hctl]
      exact lzDecompress_wrong_length (replayFrom_of_legacy (Nat.zero_le _) hlegacy fun _ => hend) hlen

end Sys2Proof.Proofs
end

/-! ## Bit strings and the codes they write -/

section

namespace Sys2Proof.Proofs

open Sys2Proof.Machine Sys2Proof.Laws

/-! ### Bit strings as numbers -/

theorem bitsValue_concat (bits : List Bool) (b : Bool) : bitsValue (bits ++ [b]) = 2 * bitsValue bits + b.toNat :=
  List.foldl_append

theorem bitsValue_append (xs ys : List Bool) : bitsValue (xs ++ ys) = bitsValue xs * 2 ^ ys.length + bitsValue ys := by
  induction ys using List.reverseRecOn with
  | nil => simp [bitsValue]
  | append_singleton ys b ih =>
    rw [← List.append_assoc, bitsValue_concat, bitsValue_concat, ih, List.length_append, List.length_singleton]
    ring

theorem bitsValue_lt (bits : List Bool) : bitsValue bits < 2 ^ bits.length := by
  induction bits using List.reverseRecOn with
  | nil => exact Nat.one_pos
  | append_singleton bits b ih =>
    have hb := Bool.toNat_lt b
    rw [bitsValue_concat, List.length_append, List.length_singleton, Nat.pow_succ]
    omega

theorem bitsMsb_succ (n v : Nat) : bitsMsb (n + 1) v = bitsMsb n (v / 2) ++ [v.testBit 0] := by
  rw [bitsMsb, List.range_succ, List.map_append, List.map_singleton, Nat.add_sub_cancel, Nat.sub_self]
  congr 1
  refine List.map_congr_left fun i hi => ?_
  have hi := List.mem_range.mp hi
  rw [← Nat.testBit_succ, show (n - 1 - i).succ = n - i by omega]

/-- A bit string is read back from its value and its length. -/
theorem bitsMsb_bitsValue (bits : List Bool) : bitsMsb bits.length (bitsValue bits) = bits := by
  induction bits using List.reverseRecOn with
  | nil => rfl
  | append_singleton bits b ih =>
    have hb := Bool.toNat_lt b
    have hbit : (2 * bitsValue bits + b.toNat).testBit 0 = b := by cases b <;> simp
    rw [List.length_append, List.length_singleton, bitsMsb_succ, bitsValue_concat, hbit,
      show (2 * bitsValue bits + b.toNat) / 2 = bitsValue bits by omega, ih]

/-- The bit string of a number that fits has that number as its value. -/
theorem bitsValue_bitsMsb {n v : Nat} (h : v < 2 ^ n) : bitsValue (bitsMsb n v) = v := by
  induction n generalizing v with
  | zero => exact (Nat.lt_one_iff.mp h).symm
  | succ n ih =>
    rw [Nat.pow_succ] at h
    rw [bitsMsb_succ, bitsValue_concat, ih (by omega), Nat.testBit_zero]
    rcases Nat.mod_two_eq_zero_or_one v with h2 | h2 <;> simp [h2] <;> omega

/-! ### Codes -/

@[simp] theorem codeBits_length (e : CodeEntry) : (codeBits e).length = e.len.toNat := bitsMsb_length _ _

theorem len_ne_zero_iff {e : CodeEntry} : e.len ≠ 0#8 ↔ 0 < e.len.toNat := by
  rw [Nat.pos_iff_ne_zero, ne_eq, ne_eq, ← BitVec.toNat_inj]
  rfl

/-- A code that fits its length is a given bit string exactly when it has its length and its value. -/
theorem codeBits_eq_iff {e : CodeEntry} (h : e.bits < 2 ^ e.len.toNat) {bits : List Bool} :
    codeBits e = bits ↔ e.len.toNat = bits.length ∧ e.bits = bitsValue bits := by
  constructor
  · rintro rfl
    exact ⟨(codeBits_length e).symm, (bitsValue_bitsMsb h).symm⟩
  · rintro ⟨hlen, hbits⟩
    rw [codeBits, hlen, hbits, bitsMsb_bitsValue]

/-- The entry of a bit string that is no longer than 255 has that bit string as its code. -/
theorem codeBits_of_bits {bits : List Bool} (h : bits.length < 256) :
    codeBits ⟨BitVec.ofNat 8 bits.length, bitsValue bits⟩ = bits := by
  rw [codeBits, toNat_ofNat_of_lt h, bitsMsb_bitsValue]

/-- The values of the codes that begin with a given code are those of one interval. -/
theorem bits_of_codeBits_prefix {a b : CodeEntry} (ha : a.bits < 2 ^ a.len.toNat) (hb : b.bits < 2 ^ b.len.toNat)
    (h : codeBits a <+: codeBits b) : a.len.toNat ≤ b.len.toNat ∧
      a.bits * 2 ^ (b.len.toNat - a.len.toNat) ≤ b.bits ∧ b.bits < (a.bits + 1) * 2 ^ (b.len.toNat - a.len.toNat) := by
  obtain ⟨rest, hrest⟩ := h
  have hvalue := congrArg bitsValue hrest
  have hlen := congrArg List.length hrest
  have hlt := bitsValue_lt rest
  rw [bitsValue_append, codeBits, codeBits, bitsValue_bitsMsb ha, bitsValue_bitsMsb hb] at hvalue
  rw [List.length_append, codeBits_length, codeBits_length] at hlen
  rw [show b.len.toNat - a.len.toNat = rest.length by omega, Nat.add_one_mul]
  omega

end Sys2Proof.Proofs
end

/-! ## The canonical assignment -/

section

namespace Sys2Proof.Proofs

open Sys2Proof.Machine Sys2Proof.Laws Sys2Proof.Claims

/-! ### The order of the assignment -/

/-- The order on pairs (length, symbol) by length, then by symbol (43_huffman.md R160). -/
def PairBefore (p q : Nat × Byte) : Prop := p.1 < q.1 ∨ (p.1 = q.1 ∧ p.2.toNat < q.2.toNat)

theorem pairBefore_irrefl (p : Nat × Byte) : ¬ PairBefore p p := fun h =>
  h.elim (Nat.lt_irrefl _) fun h => Nat.lt_irrefl _ h.2

theorem PairBefore.asymm {p q : Nat × Byte} (h : PairBefore p q) : ¬ PairBefore q p := by
  unfold PairBefore at *
  omega

theorem PairBefore.le {p q : Nat × Byte} (h : PairBefore p q) : p.1 ≤ q.1 :=
  h.elim Nat.le_of_lt fun h => h.1.le

section
variable {l : Table (BitVec 8)}

/-- The pair of a symbol (43_huffman.md R160). -/
def lengthPair (l : Table (BitVec 8)) (x : Byte) : Nat × Byte := ((l.get x).toNat, x)

theorem codedPairs_eq (l : Table (BitVec 8)) :
    codedPairs l = (allSymbols.filter fun x => l.get x != 0#8).map (lengthPair l) := by
  rw [codedPairs, table_entries, List.zip_map_left, List.zip_eq_zipWith, List.zipWith_self, List.map_map,
    List.filter_map, List.map_map]
  rfl

theorem mem_codedPairs {p : Nat × Byte} : p ∈ codedPairs l ↔ ∃ x : Byte, Coded l x ∧ lengthPair l x = p := by
  simp [codedPairs_eq, mem_allSymbols]

/-- The list of the assignment holds the pairs of the coded symbols (43_huffman.md R160). -/
theorem mem_sortedPairs {p : Nat × Byte} : p ∈ sortedPairs l ↔ ∃ x : Byte, Coded l x ∧ lengthPair l x = p := by
  rw [← mem_codedPairs, sortedPairs, List.mem_flatMap]
  refine ⟨fun ⟨_, _, hp⟩ => (List.mem_filter.mp hp).1, fun hp => ?_⟩
  have hlen : p.1 < 256 := by
    obtain ⟨x, _, rfl⟩ := mem_codedPairs.mp hp
    exact (l.get x).isLt
  exact ⟨p.1, List.mem_range.mpr hlen, List.mem_filter.mpr ⟨hp, beq_self_eq_true _⟩⟩

theorem lengthPair_mem {x : Byte} (h : Coded l x) : lengthPair l x ∈ sortedPairs l := mem_sortedPairs.mpr ⟨x, h, rfl⟩

theorem pairwise_allSymbols : allSymbols.Pairwise fun x y => x.toNat < y.toNat := by
  rw [allSymbols, List.pairwise_map]
  refine List.pairwise_lt_range.imp_of_mem fun ha hb h => ?_
  rwa [toNat_ofNat_of_lt (List.mem_range.mp ha), toNat_ofNat_of_lt (List.mem_range.mp hb)]

/-- The list of the assignment is ascending by length, then by symbol (43_huffman.md R160). -/
theorem pairwise_sortedPairs (l : Table (BitVec 8)) : (sortedPairs l).Pairwise PairBefore := by
  rw [sortedPairs, List.pairwise_flatMap]
  constructor
  · intro n _
    have hsym : (codedPairs l).Pairwise fun p q => p.2.toNat < q.2.toNat := by
      rw [codedPairs_eq, List.pairwise_map]
      exact pairwise_allSymbols.filter _
    refine (hsym.filter _).imp_of_mem fun hp hq h => .inr ⟨?_, h⟩
    rw [eq_of_beq (List.mem_filter.mp hp).2, eq_of_beq (List.mem_filter.mp hq).2]
  · refine List.pairwise_lt_range.imp fun h p hp q hq => .inl ?_
    rwa [eq_of_beq (List.mem_filter.mp hp).2, eq_of_beq (List.mem_filter.mp hq).2]

theorem nodup_sortedPairs (l : Table (BitVec 8)) : (sortedPairs l).Nodup :=
  (pairwise_sortedPairs l).imp (by rintro p q h rfl; exact pairBefore_irrefl p h)

/-- A coded symbol stands in the list after the symbols earlier than it (43_huffman.md R160). -/
theorem exists_split_sortedPairs {x : Byte} (hx : Coded l x) : ∃ pre post : List (Nat × Byte),
    sortedPairs l = pre ++ lengthPair l x :: post ∧ ∀ y : Byte, Coded l y → (lengthPair l y ∈ pre ↔ Earlier l y x) := by
  obtain ⟨pre, post, hsplit⟩ := List.append_of_mem (lengthPair_mem hx)
  have hsorted := pairwise_sortedPairs l
  rw [hsplit, List.pairwise_append, List.pairwise_cons] at hsorted
  obtain ⟨_, ⟨hpost, _⟩, hpre⟩ := hsorted
  refine ⟨pre, post, hsplit, fun y hy => ⟨fun hmem => hpre _ hmem _ List.mem_cons_self, fun hyx => ?_⟩⟩
  have hyx : PairBefore (lengthPair l y) (lengthPair l x) := hyx
  have hmem := lengthPair_mem hy
  rw [hsplit, List.mem_append, List.mem_cons] at hmem
  rcases hmem with hmem | hmem | hmem
  · exact hmem
  · exact absurd (hmem ▸ hyx) (pairBefore_irrefl _)
  · exact absurd (hpost _ hmem) hyx.asymm

/-- No pair of the list lies between two that follow each other. -/
theorem sortedPairs_adjacent {pre post : List (Nat × Byte)} {p q r : Nat × Byte}
    (h : sortedPairs l = pre ++ p :: q :: post) (hr : r ∈ sortedPairs l) : ¬ (PairBefore p r ∧ PairBefore r q) := by
  rintro ⟨hpr, hrq⟩
  have hsorted := pairwise_sortedPairs l
  rw [h, List.pairwise_append, List.pairwise_cons, List.pairwise_cons] at hsorted
  obtain ⟨_, ⟨_, hq, _⟩, hpre⟩ := hsorted
  rw [h, List.mem_append, List.mem_cons, List.mem_cons] at hr
  rcases hr with hr | rfl | rfl | hr
  · exact hpr.asymm (hpre r hr p List.mem_cons_self)
  · exact pairBefore_irrefl _ hpr
  · exact pairBefore_irrefl _ hrq
  · exact hrq.asymm (hq r hr)

end

/-! ### The values -/

/-- `code` gives the symbols of the list the values of the assignment, after a pair with the given value and length
(43_huffman.md R160). -/
def Assigned (code : Byte → Nat) : Option (Nat × Nat) → List (Nat × Byte) → Prop
  | _, [] => True
  | prev, (l, s) :: ps => code s = nextCode prev l ∧ Assigned code (some (code s, l)) ps

/-- The loop writes the values of the assignment, up to the first that does not fit its length
(43_huffman.md R160, R161). -/
theorem assignCodes_eq {code : Byte → Nat} {prev : Option (Nat × Nat)} {ps : List (Nat × Byte)}
    (h : Assigned code prev ps) : assignCodes prev ps =
      match ps.find? fun p => 2 ^ p.1 ≤ code p.2 with
      | some p => .error ⟨.corruptHeader, p.2.toNat⟩
      | none => .ok (ps.map fun p => (p.2, ⟨BitVec.ofNat 8 p.1, code p.2⟩)) := by
  induction ps generalizing prev with
  | nil => rfl
  | cons p ps ih =>
    obtain ⟨l, s⟩ := p
    obtain ⟨hs, hps⟩ := h
    simp only [assignCodes, ← hs, ih hps]
    by_cases hfit : 2 ^ l ≤ code s
    · simp [hfit]
    · simp only [hfit, if_false, List.find?_cons, decide_false]
      cases ps.find? fun p => decide (2 ^ p.1 ≤ code p.2) <;> rfl

/-- The values depend on the symbols of the list only. -/
theorem Assigned.congr {code code' : Byte → Nat} {prev : Option (Nat × Nat)} {ps : List (Nat × Byte)}
    (h : Assigned code prev ps) (hcode : ∀ p ∈ ps, code' p.2 = code p.2) : Assigned code' prev ps := by
  induction ps generalizing prev with
  | nil => trivial
  | cons p ps ih =>
    obtain ⟨hs, hps⟩ := h
    have hp := hcode p List.mem_cons_self
    exact ⟨hp.trans hs, hp.symm ▸ ih hps fun q hq => hcode q (List.mem_cons_of_mem _ hq)⟩

/-- Every list of different symbols has values. -/
theorem exists_assigned {ps : List (Nat × Byte)} (h : (ps.map Prod.snd).Nodup) (prev : Option (Nat × Nat)) :
    ∃ code : Byte → Nat, Assigned code prev ps := by
  induction ps generalizing prev with
  | nil => exact ⟨fun _ => 0, trivial⟩
  | cons p ps ih =>
    obtain ⟨l, s⟩ := p
    obtain ⟨hs, hps⟩ := List.nodup_cons.mp h
    obtain ⟨code, hcode⟩ := ih hps (some (nextCode prev l, l))
    refine ⟨Function.update code s (nextCode prev l), Function.update_self .., ?_⟩
    rw [Function.update_self]
    refine hcode.congr fun p hp => Function.update_of_ne (fun e => hs ?_) _ _
    exact List.mem_map.mpr ⟨p, hp, e⟩

/-- The value of a pair and that of the pair after it (43_huffman.md R160). -/
theorem Assigned.next {code : Byte → Nat} {prev : Option (Nat × Nat)} {pre post : List (Nat × Byte)} {p q : Nat × Byte}
    (h : Assigned code prev (pre ++ p :: q :: post)) : code q.2 = nextCode (some (code p.2, p.1)) q.1 := by
  induction pre generalizing prev with
  | nil => exact h.2.1
  | cons _ _ ih => exact ih h.2

/-- Values that are right at the head and from each pair to the next are those of the assignment. -/
theorem assigned_of_next {code : Byte → Nat} {prev : Option (Nat × Nat)} {ps : List (Nat × Byte)}
    (hhead : ∀ p ∈ ps.head?, code p.2 = nextCode prev p.1)
    (hnext : ∀ (pre post : List (Nat × Byte)) (p q : Nat × Byte), ps = pre ++ p :: q :: post →
      code q.2 = nextCode (some (code p.2, p.1)) q.1) : Assigned code prev ps := by
  induction ps generalizing prev with
  | nil => trivial
  | cons p ps ih =>
    refine ⟨hhead p rfl, ih (fun q hq => ?_) fun pre post a b he => hnext (p :: pre) post a b (by rw [he]; rfl)⟩
    obtain ⟨ps', rfl⟩ := List.head?_eq_some_iff.mp hq
    exact hnext [] ps' p q rfl

theorem nextCode_some (code prevlen len : Nat) :
    nextCode (some (code, prevlen)) len = (code + 1) * 2 ^ (len - prevlen) := Nat.shiftLeft_eq _ _

section
variable {l : Table (BitVec 8)} {code : Byte → Nat}

/-- What 43_huffman.md R160 says of the first symbol and of each next one, the loop assigns. -/
theorem assigned_of_canonicalValues (h : CanonicalValues l code) : Assigned code none (sortedPairs l) := by
  obtain ⟨hfirst, hnext⟩ := h
  have hsorted := pairwise_sortedPairs l
  refine assigned_of_next (fun p hp => ?head) fun pre post p q hsplit => ?next
  case head =>
    obtain ⟨ps, hps⟩ := List.head?_eq_some_iff.mp hp
    obtain ⟨y, hy, rfl⟩ := mem_sortedPairs.mp (hps ▸ List.mem_cons_self : p ∈ sortedPairs l)
    refine hfirst y hy fun x hx hxy => ?_
    have hxy : PairBefore (lengthPair l x) (lengthPair l y) := hxy
    rw [hps, List.pairwise_cons] at hsorted
    rcases List.mem_cons.mp (hps ▸ lengthPair_mem hx) with he | hmem
    · exact pairBefore_irrefl _ (he ▸ hxy)
    · exact hxy.asymm (hsorted.1 _ hmem)
  case next =>
    obtain ⟨x, hx, rfl⟩ := mem_sortedPairs.mp (by rw [hsplit]; simp : p ∈ sortedPairs l)
    obtain ⟨y, hy, rfl⟩ := mem_sortedPairs.mp (by rw [hsplit]; simp : q ∈ sortedPairs l)
    rw [hsplit, List.pairwise_append, List.pairwise_cons] at hsorted
    obtain ⟨_, ⟨hxy, _⟩, _⟩ := hsorted
    rw [nextCode_some]
    exact hnext x y hx hy (hxy _ List.mem_cons_self) fun z hz => sortedPairs_adjacent hsplit (lengthPair_mem hz)

/-- The values that the loop assigns are those of 43_huffman.md R160. -/
theorem Assigned.canonicalValues (h : Assigned code none (sortedPairs l)) : CanonicalValues l code := by
  refine ⟨fun y hy hfirst => ?first, fun x y hx hy hxy hbetween => ?next⟩
  case first =>
    obtain ⟨pre, post, hsplit, hpre⟩ := exists_split_sortedPairs hy
    cases pre with
    | nil => rw [hsplit] at h; exact h.1
    | cons p pre =>
      obtain ⟨x, hx, rfl⟩ := mem_sortedPairs.mp (by rw [hsplit]; simp : p ∈ sortedPairs l)
      exact absurd ((hpre x hx).mp List.mem_cons_self) (hfirst x hx)
  case next =>
    obtain ⟨pre, post, hsplit, hpre⟩ := exists_split_sortedPairs hy
    have hxpre := (hpre x hx).mpr hxy
    obtain ⟨pre', p, rfl⟩ := (List.eq_nil_or_concat' pre).resolve_left (List.ne_nil_of_mem hxpre)
    obtain ⟨z, hz, rfl⟩ := mem_sortedPairs.mp (by rw [hsplit]; simp : p ∈ sortedPairs l)
    have hlast : lengthPair l x = lengthPair l z := by
      refine (List.mem_append.mp hxpre).elim (fun hx' => ?_) List.mem_singleton.mp
      have hsorted := pairwise_sortedPairs l
      rw [hsplit, List.pairwise_append, List.pairwise_append] at hsorted
      obtain ⟨⟨_, _, hxz⟩, _⟩ := hsorted
      exact absurd ⟨hxz _ hx' _ (List.mem_singleton_self _), (hpre z hz).mp (by simp)⟩ (hbetween z hz)
    rw [hsplit, ← hlast, List.append_assoc] at h
    rw [show code y = _ from h.next, nextCode_some]
    rfl

end

end Sys2Proof.Proofs
end

/-! ## Canonical tables -/

section

namespace Sys2Proof.Proofs

open Sys2Proof.Machine Sys2Proof.Laws Sys2Proof.Claims

section
variable {l : Table (BitVec 8)} {code : Byte → Nat}

/-! ### What `canonical` answers -/

/-- The table with the lengths of `l` and the values `code`, without a code where the length is 0
(43_huffman.md R160). -/
def valueTable (l : Table (BitVec 8)) (code : Byte → Nat) : Table CodeEntry :=
  Table.ofFn fun x => if Coded l x then ⟨l.get x, code x⟩ else ⟨0#8, 0⟩

@[simp] theorem get_valueTable (x : Byte) :
    (valueTable l code).get x = if Coded l x then ⟨l.get x, code x⟩ else ⟨0#8, 0⟩ := get_ofFn _ x

theorem get_codeTable (codes : List (Byte × CodeEntry)) (x : Byte) :
    (codeTable codes).get x = (codes.lookup x).getD ⟨0#8, 0⟩ := get_ofFn _ x

theorem codeTable_sortedPairs (l : Table (BitVec 8)) (code : Byte → Nat) :
    codeTable ((sortedPairs l).map fun p => (p.2, ⟨BitVec.ofNat 8 p.1, code p.2⟩)) = valueTable l code := by
  have hentries : ((sortedPairs l).map fun p => (p.2, (⟨BitVec.ofNat 8 p.1, code p.2⟩ : CodeEntry))) =
      ((sortedPairs l).map Prod.snd).map fun x => (x, ⟨l.get x, code x⟩) := by
    rw [List.map_map]
    refine List.map_congr_left fun p hp => ?_
    obtain ⟨x, _, rfl⟩ := mem_sortedPairs.mp hp
    simp [lengthPair]
  have hmem : ∀ x : Byte, x ∈ (sortedPairs l).map Prod.snd ↔ Coded l x := fun x => by
    simp [mem_sortedPairs, lengthPair]
  refine table_ext fun x => ?_
  rw [get_codeTable, hentries, get_valueTable]
  split
  next hx => rw [List.lookup_graph _ ((hmem x).mpr hx)]; rfl
  next hx =>
    rw [List.lookup_eq_none_iff.mpr fun p hp => ?_]
    · rfl
    obtain ⟨y, hy, rfl⟩ := List.mem_map.mp hp
    exact bne_iff_ne.mpr fun e => hx ((hmem x).mp (e ▸ hy))

/-- `canonical` answers the values of the assignment, or an error at the first that does not fit its length
(43_huffman.md R160, R161). -/
theorem canonical_eq (h : Assigned code none (sortedPairs l)) : canonical l =
    match (sortedPairs l).find? fun p => 2 ^ p.1 ≤ code p.2 with
    | some p => .error ⟨.corruptHeader, p.2.toNat⟩
    | none => .ok (valueTable l code) := by
  rw [canonical, assignCodes_eq h]
  cases (sortedPairs l).find? fun p => decide (2 ^ p.1 ≤ code p.2) with
  | some p => rfl
  | none => simp only [codeTable_sortedPairs]

theorem exists_assigned_sortedPairs (l : Table (BitVec 8)) :
    ∃ code : Byte → Nat, Assigned code none (sortedPairs l) := by
  refine exists_assigned (List.Nodup.map_on (fun p hp q hq he => ?_) (nodup_sortedPairs l)) none
  obtain ⟨x, _, rfl⟩ := mem_sortedPairs.mp hp
  obtain ⟨y, _, rfl⟩ := mem_sortedPairs.mp hq
  exact congrArg (lengthPair l) he

theorem canonical_done (h : Assigned code none (sortedPairs l))
    (hfit : ∀ x : Byte, Coded l x → code x < 2 ^ (l.get x).toNat) : canonical l = .ok (valueTable l code) := by
  have hnone : ((sortedPairs l).find? fun p => 2 ^ p.1 ≤ code p.2) = none := by
    refine List.find?_eq_none.mpr fun p hp => ?_
    obtain ⟨x, hx, rfl⟩ := mem_sortedPairs.mp hp
    exact fun hunfit => Nat.not_le.mpr (hfit x hx) (of_decide_eq_true hunfit)
  rw [canonical_eq h, hnone]

/-- The first symbol of the assignment whose value does not fit is the detail of the error (43_huffman.md R162). -/
theorem canonical_unfit (h : Assigned code none (sortedPairs l)) {x : Byte} (hx : Coded l x)
    (hunfit : 2 ^ (l.get x).toNat ≤ code x)
    (hearlier : ∀ y : Byte, Coded l y → Earlier l y x → code y < 2 ^ (l.get y).toNat) :
    canonical l = .error ⟨.corruptHeader, x.toNat⟩ := by
  obtain ⟨pre, post, hsplit, hpre⟩ := exists_split_sortedPairs hx
  have hsome : ((sortedPairs l).find? fun p => 2 ^ p.1 ≤ code p.2) = some (lengthPair l x) := by
    refine List.find?_eq_some_iff_append.mpr ⟨decide_eq_true hunfit, pre, post, hsplit, fun p hp => ?_⟩
    obtain ⟨y, hy, rfl⟩ := mem_sortedPairs.mp (by rw [hsplit]; exact List.mem_append_left _ hp)
    exact (Bool.not_eq_true' _).mpr (decide_eq_false (Nat.not_le.mpr (hearlier y hy ((hpre y hy).mp hp))))
  rw [canonical_eq h, hsome]
  rfl

/-- A canonical table holds the values of the assignment, which all fit (43_huffman.md R160, R161). -/
theorem canonical_ok {c : Table CodeEntry} (h : canonical l = .ok c) : ∃ code : Byte → Nat,
    Assigned code none (sortedPairs l) ∧ c = valueTable l code ∧
      ∀ x : Byte, Coded l x → code x < 2 ^ (l.get x).toNat := by
  obtain ⟨code, hcode⟩ := exists_assigned_sortedPairs l
  rw [canonical_eq hcode] at h
  split at h
  · cases h
  next hnone =>
    cases h
    refine ⟨code, hcode, rfl, fun x hx => ?_⟩
    exact Nat.not_le.mp fun hunfit => List.find?_eq_none.mp hnone _ (lengthPair_mem hx) (decide_eq_true hunfit)

/-- `canonical` fails only with `CorruptHeader` of a symbol whose value does not fit (43_huffman.md R161). -/
theorem canonical_error {e : CmdError} (h : canonical l = .error e) : ∃ (code : Byte → Nat) (x : Byte),
    Assigned code none (sortedPairs l) ∧ Coded l x ∧ 2 ^ (l.get x).toNat ≤ code x ∧ e = ⟨.corruptHeader, x.toNat⟩ := by
  obtain ⟨code, hcode⟩ := exists_assigned_sortedPairs l
  rw [canonical_eq hcode] at h
  split at h
  next p hp =>
    cases h
    have hunfit : 2 ^ p.1 ≤ code p.2 := by simpa using List.find?_some hp
    obtain ⟨x, hx, rfl⟩ := mem_sortedPairs.mp (List.mem_of_find?_eq_some hp)
    exact ⟨code, x, hcode, hx, hunfit, rfl⟩
  · cases h

/-! ### The values and the Kraft sum -/

/-- The sum of `2^(-len)` over the pairs of a list, times `2^255` (43_huffman.md R161). -/
def weight (ps : List (Nat × Byte)) : Nat := (ps.map fun p => 2 ^ (255 - p.1)).sum

theorem weight_append (ps qs : List (Nat × Byte)) : weight (ps ++ qs) = weight ps + weight qs := by
  rw [weight, List.map_append, List.sum_append]
  rfl

theorem weight_cons (p : Nat × Byte) (ps : List (Nat × Byte)) : weight (p :: ps) = 2 ^ (255 - p.1) + weight ps := rfl

theorem perm_sortedPairs (l : Table (BitVec 8)) : (sortedPairs l).Perm (codedPairs l) := by
  refine (List.perm_ext_iff_of_nodup (nodup_sortedPairs l) ?_).mpr fun p => ?_
  · rw [codedPairs_eq]
    exact (allSymbols_nodup.filter _).map fun x y h => congrArg Prod.snd h
  · rw [mem_sortedPairs, mem_codedPairs]

theorem kraftSum_eq (l : Table (BitVec 8)) : kraftSum l = weight (sortedPairs l) := by
  rw [weight, ((perm_sortedPairs l).map _).sum_eq, codedPairs_eq, kraftSum]
  generalize allSymbols = xs
  induction xs with
  | nil => rfl
  | cons x xs ih =>
    rw [List.map_cons, List.sum_cons, ih, List.filter_cons]
    by_cases hx : l.get x = 0#8 <;> simp [hx, lengthPair]

theorem length_le_of_mem_sortedPairs {p : Nat × Byte} (h : p ∈ sortedPairs l) : p.1 ≤ 255 := by
  obtain ⟨x, _, rfl⟩ := mem_sortedPairs.mp h
  exact Nat.le_of_lt_succ (l.get x).isLt

/-- A value, scaled to the length 255, is the weight of the symbols earlier in the assignment. -/
theorem Assigned.value_eq_weight (h : Assigned code none (sortedPairs l)) {pre post : List (Nat × Byte)}
    {p : Nat × Byte} (hsplit : sortedPairs l = pre ++ p :: post) : code p.2 * 2 ^ (255 - p.1) = weight pre := by
  induction pre using List.reverseRecOn generalizing p post with
  | nil =>
    rw [hsplit] at h
    rw [show code p.2 = 0 from h.1, Nat.zero_mul]
    rfl
  | append_singleton pre q ih =>
    have hq : sortedPairs l = pre ++ q :: p :: post := by rw [hsplit, List.append_assoc]; rfl
    have hqp : q.1 ≤ p.1 := by
      have hsorted := pairwise_sortedPairs l
      rw [hq, List.pairwise_append, List.pairwise_cons] at hsorted
      obtain ⟨_, ⟨hafter, _⟩, _⟩ := hsorted
      exact (hafter p List.mem_cons_self).le
    have hp := length_le_of_mem_sortedPairs (by rw [hsplit]; simp : p ∈ sortedPairs l)
    have hnext : code p.2 = (code q.2 + 1) * 2 ^ (p.1 - q.1) := by
      rw [hq] at h
      rw [h.next, nextCode_some]
    rw [hnext, Nat.mul_assoc, ← Nat.pow_add, show p.1 - q.1 + (255 - p.1) = 255 - q.1 by omega, Nat.add_one_mul, ih hq,
      weight_append]
    rfl

/-- A value fits its length exactly when the weight of the earlier symbols stays below `2^255`. -/
theorem Assigned.fits_iff (h : Assigned code none (sortedPairs l)) {pre post : List (Nat × Byte)}
    {p : Nat × Byte} (hsplit : sortedPairs l = pre ++ p :: post) : code p.2 < 2 ^ p.1 ↔ weight pre < 2 ^ 255 := by
  have hp := length_le_of_mem_sortedPairs (by rw [hsplit]; simp : p ∈ sortedPairs l)
  rw [← h.value_eq_weight hsplit, ← Nat.mul_lt_mul_right (a := 2 ^ (255 - p.1)) (by positivity), ← Nat.pow_add,
    Nat.add_sub_cancel' hp]

/-- Lengths whose values all fit are not over-subscribed (43_huffman.md R161). -/
theorem kraftSum_le_of_canonical_ok {c : Table CodeEntry} (h : canonical l = .ok c) : kraftSum l ≤ 2 ^ 255 := by
  obtain ⟨code, hcode, _, hfit⟩ := canonical_ok h
  rw [kraftSum_eq]
  rcases List.eq_nil_or_concat' (sortedPairs l) with hnil | ⟨pre, p, hsplit⟩
  · rw [hnil]
    exact Nat.zero_le _
  · obtain ⟨x, hx, rfl⟩ := mem_sortedPairs.mp (by rw [hsplit]; simp : p ∈ sortedPairs l)
    have hlen := (l.get x).isLt
    calc weight (sortedPairs l)
        = (code x + 1) * 2 ^ (255 - (l.get x).toNat) := by
          rw [hsplit, weight_append, ← hcode.value_eq_weight hsplit, Nat.add_one_mul]
          rfl
      _ ≤ 2 ^ (l.get x).toNat * 2 ^ (255 - (l.get x).toNat) := Nat.mul_le_mul_right _ (hfit x hx)
      _ = 2 ^ 255 := by rw [← Nat.pow_add, Nat.add_sub_cancel' (by omega)]

/-- A value that does not fit makes the lengths over-subscribed: the earlier symbols alone use up the whole
(43_huffman.md R161). -/
theorem lt_kraftSum_of_canonical_error {e : CmdError} (h : canonical l = .error e) : 2 ^ 255 < kraftSum l := by
  obtain ⟨code, x, hcode, hx, hunfit, _⟩ := canonical_error h
  obtain ⟨pre, post, hsplit, _⟩ := exists_split_sortedPairs hx
  have hweight : 2 ^ 255 ≤ weight pre := Nat.not_lt.mp ((hcode.fits_iff hsplit).not.mp (Nat.not_lt.mpr hunfit))
  have hpos : 0 < 2 ^ (255 - (lengthPair l x).1) := by positivity
  rw [kraftSum_eq, hsplit, weight_append, weight_cons]
  omega

/-! ### No code begins another -/

theorem codesFit_valueTable (hfit : ∀ x : Byte, Coded l x → code x < 2 ^ (l.get x).toNat) :
    CodesFit (valueTable l code) := fun x => by
  rw [get_valueTable]
  split
  next hx => exact hfit x hx
  · exact Nat.one_pos

/-- The intervals of the codes, scaled to the length 255, follow each other in the order of the assignment. -/
theorem Assigned.interval_le (h : Assigned code none (sortedPairs l)) {x y : Byte} (hx : Coded l x) (hy : Coded l y)
    (hxy : Earlier l x y) :
    (code x + 1) * 2 ^ (255 - (l.get x).toNat) ≤ code y * 2 ^ (255 - (l.get y).toNat) := by
  obtain ⟨pre, post, hsplit, hpre⟩ := exists_split_sortedPairs hy
  obtain ⟨pre', mid, rfl⟩ := List.append_of_mem ((hpre x hx).mpr hxy)
  have hyvalue := h.value_eq_weight hsplit
  rw [List.append_assoc] at hsplit
  have hxvalue := h.value_eq_weight hsplit
  rw [weight_append, weight_cons, ← hxvalue] at hyvalue
  simp only [lengthPair] at hyvalue
  rw [hyvalue, Nat.add_one_mul]
  omega

/-- No code lies in the interval of another (43_huffman.md R161). -/
theorem prefixFree_valueTable (h : Assigned code none (sortedPairs l))
    (hfit : ∀ x : Byte, Coded l x → code x < 2 ^ (l.get x).toNat) : PrefixFree (valueTable l code) := by
  intro a b hab ha hb hprefix
  obtain ⟨hlen, hlow, hhigh⟩ :=
    bits_of_codeBits_prefix (codesFit_valueTable hfit a) (codesFit_valueTable hfit b) hprefix
  simp only [get_valueTable] at ha hb hlen hlow hhigh
  have hca : Coded l a := fun h0 => by simp [h0] at ha
  have hcb : Coded l b := fun h0 => by simp [h0] at hb
  simp only [if_pos hca, if_pos hcb] at hlen hlow hhigh
  have hscale : 2 ^ ((l.get b).toNat - (l.get a).toNat) * 2 ^ (255 - (l.get b).toNat) =
      2 ^ (255 - (l.get a).toNat) := by
    have := (l.get b).isLt
    rw [← Nat.pow_add]
    congr 1
    omega
  have hlow := Nat.mul_le_mul_right (2 ^ (255 - (l.get b).toNat)) hlow
  have hhigh := Nat.mul_lt_mul_of_pos_right hhigh (show 0 < 2 ^ (255 - (l.get b).toNat) by positivity)
  rw [Nat.mul_assoc, hscale] at hlow hhigh
  have hne : a.toNat ≠ b.toNat := fun e => hab (BitVec.eq_of_toNat_eq e)
  rcases (by unfold Earlier; omega : Earlier l a b ∨ Earlier l b a) with hearlier | hearlier
  · exact absurd hhigh (Nat.not_lt.mpr (h.interval_le hca hcb hearlier))
  · have := h.interval_le hcb hca hearlier
    rw [Nat.add_one_mul] at this
    have hpos : 0 < 2 ^ (255 - (l.get b).toNat) := by positivity
    omega

/-- No code of a canonical table begins another, and all fit their lengths (43_huffman.md R161). -/
theorem prefixFree_canonical {c : Table CodeEntry} (h : canonical l = .ok c) : PrefixFree c ∧ CodesFit c := by
  obtain ⟨code, hcode, rfl, hfit⟩ := canonical_ok h
  exact ⟨prefixFree_valueTable hcode hfit, codesFit_valueTable hfit⟩

end

/-! ### The statements -/

/-- `CODE` is written by `HUF.CANON` and the resets only (43_huffman.md R162). -/
theorem Update.keeps_code {s t : State} (hu : Update s t) (h : PrefixFree s.code ∧ CodesFit s.code) :
    PrefixFree t.code ∧ CodesFit t.code := by
  cases hu with
  | error | acknowledge | swap | emptyWriter | completeByte | pendBit | attach | cursor | results | tokens | dropTokens
  | output | dropOutput | freq | len | tcode | tree | parameters | sourceByte | token | answer | take => exact h
  | reset => exact ⟨prefixFree_fill, codesFit_fill⟩
  | code hc => exact prefixFree_canonical hc

/-- Settles O57. -/
theorem stepKeepsCodePrefixFree : Obligations.StepKeepsCodePrefixFree :=
  fun _ _ hpf hfit h => (step_updates h).keep Update.keeps_code ⟨hpf, hfit⟩

/-- Settles O38. -/
theorem canonicalFailsIffOversubscribed : Obligations.CanonicalFailsIffOversubscribed := by
  refine fun l => ⟨⟨fun ⟨_, he⟩ => lt_kraftSum_of_canonical_error he, fun hover => ?_⟩,
    fun _ h => (prefixFree_canonical h).1⟩
  cases hc : canonical l with
  | error e => exact ⟨e, rfl⟩
  | ok c => exact absurd hover (Nat.not_lt.mpr (kraftSum_le_of_canonical_ok hc))

/-- Settles O37. -/
theorem canonicalTablesArePrefixFree : Obligations.CanonicalTablesArePrefixFree := by
  intro l c h
  obtain ⟨hpf, hcf⟩ := prefixFree_canonical h
  obtain ⟨code, hcode, rfl, _⟩ := canonical_ok h
  refine ⟨fun x => ?lengths, (hcode.congr fun p hp => ?values).canonicalValues, hcf, hpf⟩
  case lengths =>
    by_cases hx : Coded l x
    · simp [hx]
    · simpa [hx] using (not_not.mp hx).symm
  case values =>
    obtain ⟨x, hx, rfl⟩ := mem_sortedPairs.mp hp
    exact congrArg CodeEntry.bits ((get_valueTable x).trans (if_pos hx))

theorem hufCanon_done {s : State} {c : Table CodeEntry} (hs : Ready s) (h : canonical s.len = .ok c) :
    exec .hufCanon s = .next { s with code := c } := command_done hs (by simp only [h])

theorem hufCanon_errored {s : State} {x : Byte} (hs : Ready s)
    (h : canonical s.len = .error ⟨.corruptHeader, x.toNat⟩) : exec .hufCanon s =
      .next (errored 4#8 (BitVec.ofNat 64 x.toNat) 0x44000000#32 s) :=
  command_errored (k := .corruptHeader) hs (x.isLt.trans (by decide)) (by simp only [h])

/-- Settles O36: the command stores what `canonical` answers, which follows the values of R160. -/
theorem hufCanonResult : Obligations.HufCanonResult := by
  intro s hs
  refine ⟨fun c => hufCanon_done hs, fun e he => ?error, fun code hvalues =>
    ⟨fun hfit => ?fits, fun x hx hunfit hearlier => ?unfit⟩⟩
  case error =>
    obtain ⟨_, x, _, _, _, rfl⟩ := canonical_error he
    exact ⟨x.isLt, hufCanon_errored hs he⟩
  case fits =>
    exact ⟨_, hufCanon_done hs (canonical_done (assigned_of_canonicalValues hvalues) hfit), rfl, get_valueTable⟩
  case unfit =>
    rw [← BitVec.ofNat_toNat]
    exact hufCanon_errored hs (canonical_unfit (assigned_of_canonicalValues hvalues) hx hunfit hearlier)

end Sys2Proof.Proofs
end

/-! ## The Huffman encoder -/

section

namespace Sys2Proof.Proofs

open Sys2Proof.Machine Sys2Proof.Laws Sys2Proof.Claims

theorem streamBits_cons (c : Table CodeEntry) (x : Byte) (xs : List Byte) :
    streamBits c (x :: xs) = codeBits (c.get x) ++ streamBits c xs := List.flatMap_cons

theorem streamBits_append (c : Table CodeEntry) (xs ys : List Byte) :
    streamBits c (xs ++ ys) = streamBits c xs ++ streamBits c ys := List.flatMap_append

theorem writeBits_append (s : State) (as bs : List Bool) :
    writeBits s (as ++ bs) = (writeBits s as).bind fun t => writeBits t bs := by
  induction as generalizing s with
  | nil => rfl
  | cons a as ih =>
    simp only [List.cons_append, writeBits]
    cases writeBit s a with
    | ok t => exact ih t
    | error e => rfl

section
variable {s : State}

/-- The symbols before the first without a code are written as one bit string (43_huffman.md R164). -/
theorem encodeSymbols_append {pre : List Byte} (hpre : ∀ y ∈ pre, (s.code.get y).len ≠ 0#8) (i : Nat)
    (rest : List Byte) : encodeSymbols s i (pre ++ rest) =
      (writeBits s (streamBits s.code pre)).bind fun t => encodeSymbols t (i + pre.length) rest := by
  induction pre generalizing s i with
  | nil => rfl
  | cons x xs ih =>
    obtain ⟨hx, hxs⟩ := List.forall_mem_cons.mp hpre
    rw [streamBits_cons, writeBits_append, List.cons_append, encodeSymbols, if_neg hx]
    cases hw : writeBits s (codeBits (s.code.get x)) with
    | ok t =>
      have hcode : t.code = s.code := by rw [writeBits_frame hw]
      rw [← hcode] at hxs
      simp only [Except.bind, ih hxs, hcode, List.length_cons, Nat.add_assoc, Nat.add_comm 1]
    | error e => rfl

/-- `HUF.ENC` with a code for every byte and room for the bits (43_huffman.md R164). -/
theorem hufEnc_done (hs : Ready s) (hcap : s.cap.Valid) (h : WriterInv s) (hsrc : s.srcLen.toNat ≤ s.cap.bufCap)
    (hcoded : ∀ x ∈ bufferBytes s .src, (s.code.get x).len ≠ 0#8)
    (hroom : RoomFor (streamBits s.code (bufferBytes s .src)).length s) :
    ∃ t : State, exec .hufEnc s = .next t ∧ WriterInv t ∧
      writerStream t = writerStream s ++ streamBits s.code (bufferBytes s .src) ∧
      t = { s with bsw := t.bsw, wLen := t.wLen, wAcc := t.wAcc, wN := t.wN } := by
  obtain ⟨t, ht, hstream⟩ := writeBits_ok hcap h _ hroom
  have henc := encodeSymbols_append hcoded 0 []
  rw [List.append_nil, ht] at henc
  exact ⟨t, command_done hs (by simp only [sourceBytes_ok hsrc, henc]; rfl),
    (writeBits_updates ht).keep Update.keeps_writerInv h, hstream, writeBits_frame ht⟩

/-- `HUF.ENC` that stops with an error empties the writer (60_exceptions.md R234). -/
theorem hufEnc_errored {k : ErrorKind} {info : Nat} (hs : Ready s) (hsrc : s.srcLen.toNat ≤ s.cap.bufCap)
    (hinfo : info < 2 ^ 64) (h : encodeSymbols s 0 (bufferBytes s .src) = .error ⟨k, info⟩) :
    ∃ t : State, exec .hufEnc s = .next t ∧ t = errored (errorCode k) (BitVec.ofNat 64 info) 0x45000000#32
      { s with bsw := t.bsw, wLen := 0#64, wAcc := 0#8, wN := 0#3 } :=
  ⟨_, command_errored (u := clearWriter s) hs hinfo (by simp only [sourceBytes_ok hsrc, h]), rfl⟩

end

/-- Settles O39: the encoder writes the codes of a part of the source as one bit string, which fits or does not. -/
theorem hufEncAppendsCodes : Obligations.HufEncAppendsCodes := by
  intro s hs hcap h hsrc
  have hcap64 : s.cap.bufCap < 2 ^ 64 := hcap.1.2.trans (by decide)
  refine ⟨hufEnc_done hs hcap h hsrc, fun pre post x hsplit hpre hx hroom => ?noCode,
    fun pre hprefix hpre hroom => ?full⟩
  case noCode =>
    obtain ⟨t, ht, _⟩ := writeBits_ok hcap h _ hroom
    have hcode : t.code = s.code := by rw [writeBits_frame ht]
    have hlen : pre.length < 2 ^ 64 := by
      have hlength := sourceBytes_length s
      rw [hsplit, List.length_append, List.length_cons] at hlength
      omega
    refine hufEnc_errored (k := .compressionFailed) hs hsrc hlen ?_
    have hnone : encodeSymbols t (0 + pre.length) (x :: post) = .error ⟨.compressionFailed, pre.length⟩ := by
      rw [encodeSymbols, hcode, if_pos hx, Nat.zero_add]
    rw [hsplit, encodeSymbols_append hpre, streamBits, ht]
    exact hnone
  case full =>
    obtain ⟨post, hsplit⟩ := hprefix
    refine hufEnc_errored (k := .memoryError) hs hsrc hcap64 ?_
    rw [← hsplit, encodeSymbols_append hpre, streamBits, writeBits_full hcap h _ hroom]
    rfl

end Sys2Proof.Proofs
end

/-! ## The Huffman decoder -/

section

namespace Sys2Proof.Proofs

open Sys2Proof.Machine Sys2Proof.Laws Sys2Proof.Claims

/-- A run of the decoding loop that put out `out` and took `n` bits before going on as `r`. -/
def decodedAfter (out : List Byte) (n : Nat) (r : Decoded) : Decoded := ⟨out ++ r.out, r.used + n, r.ending⟩

theorem decodedAfter_after (out out' : List Byte) (n n' : Nat) (r : Decoded) :
    decodedAfter out n (decodedAfter out' n' r) = decodedAfter (out ++ out') (n + n') r := by
  simp only [decodedAfter, List.append_assoc, Nat.add_assoc, Nat.add_comm n]

section
variable {c : Table CodeEntry} {bound : Bool} {left room : Nat}

/-! ### The candidate

After the bits `p` since the last code the candidate is `(p.length, bitsValue p)` (43_huffman.md R165). -/

theorem findSymbol_eq_none_iff (hfit : CodesFit c) {p : List Bool} :
    findSymbol c p.length (bitsValue p) = none ↔ ∀ x : Byte, codeBits (c.get x) ≠ p := by
  simp only [findSymbol_none, ne_eq, codeBits_eq_iff (hfit _)]

/-- A code completes the candidate of its own symbol only (43_huffman.md R165). -/
theorem findSymbol_codeBits (hpf : PrefixFree c) (hfit : CodesFit c) {x : Byte} (hx : (c.get x).len ≠ 0#8) :
    findSymbol c (codeBits (c.get x)).length (bitsValue (codeBits (c.get x))) = some x := by
  cases hy : findSymbol c (codeBits (c.get x)).length (bitsValue (codeBits (c.get x))) with
  | none => exact absurd rfl ((findSymbol_eq_none_iff hfit).mp hy x)
  | some y =>
    have hbits := (codeBits_eq_iff (hfit y)).mpr (findSymbol_some hy)
    by_contra hne
    have hyx : y ≠ x := fun e => hne (congrArg some e)
    have hylen : (c.get y).len ≠ 0#8 := by
      rw [len_ne_zero_iff, ← codeBits_length, hbits, codeBits_length, ← len_ne_zero_iff]
      exact hx
    exact hpf y x hyx hylen hx (hbits ▸ List.prefix_rfl)

/-- Bits that complete no code extend the candidate. -/
theorem huffDecode_bit_pending (hfit : CodesFit c) (hb : bound = true → left ≠ 0) {p : List Bool} {b : Bool}
    (bs : List Bool) (h : ∀ x : Byte, codeBits (c.get x) ≠ p ++ [b]) :
    huffDecode c bound (b :: bs) left room p.length (bitsValue p) =
      decodedAfter [] 1 (huffDecode c bound bs left room (p ++ [b]).length (bitsValue (p ++ [b]))) := by
  have hnone := (findSymbol_eq_none_iff hfit).mpr h
  rw [List.length_append, List.length_singleton, bitsValue_concat] at hnone ⊢
  exact huffDecode_extend hb hnone

/-- A bit that completes the code of `x` puts out `x`, when there is room. -/
theorem huffDecode_bit_emit (hpf : PrefixFree c) (hfit : CodesFit c) (hb : bound = true → left ≠ 0) {p : List Bool}
    {b : Bool} (bs : List Bool) {x : Byte} (hx : (c.get x).len ≠ 0#8) (h : codeBits (c.get x) = p ++ [b]) :
    huffDecode c bound (b :: bs) left room p.length (bitsValue p) =
      if room = 0 then ⟨[], 1, .full⟩ else decodedAfter [x] 1 (huffDecode c bound bs (left - 1) (room - 1) 0 0) := by
  have hsome := findSymbol_codeBits hpf hfit hx
  rw [h, List.length_append, List.length_singleton, bitsValue_concat] at hsome
  exact huffDecode_emit hb hsome

/-! ### Symbols -/

/-- A code, part of which stands in the candidate, puts out its symbol, when there is room. -/
theorem huffDecode_code_from (hpf : PrefixFree c) (hfit : CodesFit c) (hb : bound = true → left ≠ 0) {x : Byte}
    (hx : (c.get x).len ≠ 0#8) {p q : List Bool} (hq : q ≠ []) (h : codeBits (c.get x) = p ++ q) (bs : List Bool) :
    huffDecode c bound (q ++ bs) left room p.length (bitsValue p) =
      if room = 0 then ⟨[], q.length, .full⟩
      else decodedAfter [x] q.length (huffDecode c bound bs (left - 1) (room - 1) 0 0) := by
  induction q generalizing p with
  | nil => exact absurd rfl hq
  | cons b q ih =>
    by_cases hq' : q = []
    · subst hq'
      exact huffDecode_bit_emit hpf hfit hb bs hx h
    have hpb : codeBits (c.get x) = p ++ [b] ++ q := by rw [h, List.append_assoc]; rfl
    have hpending : ∀ y : Byte, codeBits (c.get y) ≠ p ++ [b] := by
      intro y hy
      by_cases hyx : y = x
      · rw [hyx, hpb] at hy
        exact hq' (List.append_right_eq_self.mp hy)
      · have hylen : (c.get y).len ≠ 0#8 := by
          rw [len_ne_zero_iff, ← codeBits_length, hy, List.length_append]
          exact Nat.succ_pos _
        exact hpf y x hyx hylen hx ⟨q, by rw [hy, hpb]⟩
    rw [List.cons_append, huffDecode_bit_pending hfit hb _ hpending, ih hq' hpb]
    split
    · simp [decodedAfter]
    · rw [decodedAfter_after, List.nil_append, List.length_cons, Nat.add_comm]

theorem huffDecode_code (hpf : PrefixFree c) (hfit : CodesFit c) (hb : bound = true → left ≠ 0) {x : Byte}
    (hx : (c.get x).len ≠ 0#8) (bs : List Bool) :
    huffDecode c bound (codeBits (c.get x) ++ bs) left room 0 0 =
      if room = 0 then ⟨[], (codeBits (c.get x)).length, .full⟩
      else decodedAfter [x] (codeBits (c.get x)).length (huffDecode c bound bs (left - 1) (room - 1) 0 0) :=
  huffDecode_code_from (p := []) (q := codeBits (c.get x)) hpf hfit hb hx
    (List.ne_nil_of_length_pos (by rw [codeBits_length]; exact len_ne_zero_iff.mp hx)) rfl bs

/-- The codes of symbols that are wanted and have room put out those symbols. -/
theorem huffDecode_streamBits (hpf : PrefixFree c) (hfit : CodesFit c) {xs : List Byte}
    (hxs : ∀ x ∈ xs, (c.get x).len ≠ 0#8) (hleft : bound = true → xs.length ≤ left) (hroom : xs.length ≤ room)
    (bs : List Bool) : huffDecode c bound (streamBits c xs ++ bs) left room 0 0 =
      decodedAfter xs (streamBits c xs).length
        (huffDecode c bound bs (left - xs.length) (room - xs.length) 0 0) := by
  induction xs generalizing left room with
  | nil => rfl
  | cons x xs ih =>
    obtain ⟨hx, hxs⟩ := List.forall_mem_cons.mp hxs
    rw [List.length_cons] at hleft hroom ⊢
    rw [streamBits_cons, List.append_assoc, huffDecode_code hpf hfit (fun hb => by have := hleft hb; omega) hx,
      if_neg (by omega), ih hxs (fun hb => by have := hleft hb; omega) (by omega), decodedAfter_after,
      ← List.length_append, Nat.sub_sub, Nat.sub_sub, Nat.add_comm 1]
    rfl

/-- Bounded mode stops after the symbols it wants (43_huffman.md R165). -/
theorem huffDecode_enough (bits : List Bool) (cl cv : Nat) :
    huffDecode c true bits 0 room cl cv = ⟨[], 0, .returned⟩ := by
  cases bits <;> simp [huffDecode]

/-- Bits that complete no code are consumed, and the candidate is discarded (43_huffman.md R165). -/
theorem huffDecode_tail (hfit : CodesFit c) (hb : bound = true → left ≠ 0) {p tail : List Bool}
    (h : ∀ (x : Byte) (q : List Bool), q ≠ [] → q <+: tail → codeBits (c.get x) ≠ p ++ q) :
    huffDecode c bound tail left room p.length (bitsValue p) =
      ⟨[], tail.length, if bound = true then .exhausted else .returned⟩ := by
  induction tail generalizing p with
  | nil =>
    cases bound with
    | false => simp [huffDecode]
    | true => simp [huffDecode, hb rfl]
  | cons b tail ih =>
    have hnext : ∀ (x : Byte) (q : List Bool), q ≠ [] → q <+: tail → codeBits (c.get x) ≠ p ++ [b] ++ q := by
      intro x q _ hq
      rw [List.append_assoc]
      exact h x (b :: q) (List.cons_ne_nil _ _) ((List.cons_prefix_cons).mpr ⟨rfl, hq⟩)
    rw [huffDecode_bit_pending hfit hb tail fun x => h x [b] (List.cons_ne_nil _ _) (by simp), ih hnext]
    rfl

end

/-! ### The command -/

/-- What the decoding loop of `HUF.DEC` does (43_huffman.md R166). -/
def decodedOf (s : State) : Decoded :=
  huffDecode s.code (bounded s) (remainingBits s) s.symCnt.toNat s.cap.bufCap 0 0

section
variable {s : State} {d : Decoded} {out : List Byte} {n : Nat}

/-- With a reader that may be used `HUF.DEC` produces the result of the loop, the cursor moved over the bits
consumed (43_huffman.md R166). -/
theorem exec_hufDec (hsel : s.rSel ≠ 1#2) (hsrc : readerBlocked s = false) (hd : decodedOf s = d) :
    exec .hufDec s = command 0x46000000#32 s fun _ =>
      produceDst (skipBits d.used s) (decodedResult s.cap.bufCap (skipBits d.used s).rByte.toNat d) := by
  subst hd
  simp only [exec, execHufDec, command, commandState, if_neg hsel, hsrc, Bool.false_eq_true, if_false]
  rfl

theorem hufDec_returned (hs : Ready s) (hsel : s.rSel ≠ 1#2) (hsrc : readerBlocked s = false)
    (hd : decodedOf s = ⟨out, n, .returned⟩) : exec .hufDec s = .next (produced out (skipBits n s)) := by
  rw [exec_hufDec hsel hsrc hd]
  exact command_done hs rfl

theorem hufDec_exhausted (hs : Ready s) (hsel : s.rSel ≠ 1#2) (hsrc : readerBlocked s = false)
    (hd : decodedOf s = ⟨out, n, .exhausted⟩) :
    exec .hufDec s = .next (errored 1#8 (skipBits n s).rByte 0x46000000#32 (emptied (skipBits n s))) := by
  rw [exec_hufDec hsel hsrc hd, command_errored (k := .streamExhausted) (u := failDst (skipBits n s)) hs
    (skipBits n s).rByte.isLt rfl, BitVec.ofNat_toNat, BitVec.setWidth_eq]
  rfl

theorem hufDec_full (hs : Ready s) (hsel : s.rSel ≠ 1#2) (hsrc : readerBlocked s = false)
    (hcap : s.cap.bufCap < 2 ^ 64) (hd : decodedOf s = ⟨out, n, .full⟩) : exec .hufDec s =
      .next (errored 9#8 (BitVec.ofNat 64 s.cap.bufCap) 0x46000000#32 (emptied (skipBits n s))) := by
  rw [exec_hufDec hsel hsrc hd]
  exact command_errored (k := .memoryError) hs hcap rfl

end

/-- Bit `k` of the remaining ones is the bit `k` places after the cursor (40_bitstream.md R105). -/
theorem remainingBits_getElem? {s : State} {k : Nat} (h : k < (remainingBits s).length) :
    (remainingBits s)[k]? =
      some ((readerByte s ((cursorPos s + k) / 8)).getLsbD (7 - (cursorPos s + k) % 8)) := by
  rw [remainingBits_length] at h
  rw [remainingBits_eq, List.getElem?_drop, readerBits]
  conv_lhs => rw [← Nat.div_add_mod (cursorPos s + k) 8, bitsOf_getElem? _ _ (Nat.mod_lt _ (by decide))]
  simp [show (cursorPos s + k) / 8 < readerLen s by omega]

/-- The first `n` symbols of `xs` and the rest of the bits. -/
theorem streamBits_take_append (c : Table CodeEntry) (xs : List Byte) (tail : List Bool) (n : Nat) :
    streamBits c xs ++ tail = streamBits c (xs.take n) ++ (streamBits c (xs.drop n) ++ tail) := by
  rw [← List.append_assoc, ← streamBits_append, List.take_append_drop]

section
variable {s : State} {xs : List Byte} {tail : List Bool}

/-- The symbol after `BUF_CAP` symbols, when it is wanted, ends the decoding (43_huffman.md R165). -/
theorem decodedOf_full (hpf : PrefixFree s.code) (hfit : CodesFit s.code) (hxs : ∀ x ∈ xs, (s.code.get x).len ≠ 0#8)
    (hbits : remainingBits s = streamBits s.code xs ++ tail) (hcap : s.cap.bufCap < xs.length)
    (hwant : bounded s = true → s.cap.bufCap < s.symCnt.toNat) :
    decodedOf s = ⟨xs.take s.cap.bufCap, (streamBits s.code (xs.take (s.cap.bufCap + 1))).length, .full⟩ := by
  have hx := List.getElem_mem hcap
  have htake := List.take_succ_eq_append_getElem hcap
  have hlen : (xs.take s.cap.bufCap).length = s.cap.bufCap := List.length_take_of_le hcap.le
  rw [decodedOf, hbits, streamBits_take_append _ _ _ (s.cap.bufCap + 1), htake, streamBits_append, List.append_assoc,
    huffDecode_streamBits hpf hfit (fun x hx => hxs x (List.mem_of_mem_take hx))
      (fun hb => by have := hwant hb; omega) hlen.le, hlen, Nat.sub_self, streamBits_cons, List.append_assoc,
    huffDecode_code hpf hfit (fun hb => by have := hwant hb; omega) (hxs _ hx), if_pos rfl]
  simp [decodedAfter, streamBits, Nat.add_comm]

/-- The symbols in the remaining bits are fewer than wanted, or all are taken (43_huffman.md R165). -/
theorem decodedOf_all (hpf : PrefixFree s.code) (hfit : CodesFit s.code) (hxs : ∀ x ∈ xs, (s.code.get x).len ≠ 0#8)
    (htail : ∀ x : Byte, (s.code.get x).len ≠ 0#8 → ¬ codeBits (s.code.get x) <+: tail)
    (hbits : remainingBits s = streamBits s.code xs ++ tail) (hcap : xs.length ≤ s.cap.bufCap)
    (hwant : bounded s = true → xs.length < s.symCnt.toNat) :
    decodedOf s = ⟨xs, (remainingBits s).length, if bounded s = true then .exhausted else .returned⟩ := by
  have hnone : ∀ (x : Byte) (q : List Bool), q ≠ [] → q <+: tail → codeBits (s.code.get x) ≠ [] ++ q := by
    rintro x q hne hq hx
    refine htail x ?_ (hx ▸ hq)
    rw [len_ne_zero_iff, ← codeBits_length, hx]
    exact List.length_pos_of_ne_nil hne
  have hrest := huffDecode_tail (bound := bounded s) (left := s.symCnt.toNat - xs.length)
    (room := s.cap.bufCap - xs.length) hfit (fun hb => by have := hwant hb; omega) hnone
  rw [decodedOf, hbits, huffDecode_streamBits hpf hfit hxs (fun hb => (hwant hb).le) hcap,
    show huffDecode _ _ tail _ _ 0 0 = _ from hrest]
  simp [decodedAfter, Nat.add_comm]

/-- Bounded mode takes the symbols wanted (43_huffman.md R165). -/
theorem decodedOf_enough (hpf : PrefixFree s.code) (hfit : CodesFit s.code) (hxs : ∀ x ∈ xs, (s.code.get x).len ≠ 0#8)
    (hbits : remainingBits s = streamBits s.code xs ++ tail) (hcap : xs.length ≤ s.cap.bufCap)
    (hbound : bounded s = true) (hcount : xs.length = s.symCnt.toNat) :
    decodedOf s = ⟨xs, (streamBits s.code xs).length, .returned⟩ := by
  rw [decodedOf, hbits, huffDecode_streamBits hpf hfit hxs (fun _ => hcount.le) hcap, hcount, Nat.sub_self, hbound,
    huffDecode_enough]
  simp [decodedAfter]

end

/-- Settles O40: the command follows the decoding loop, which takes the codes one after the other. -/
theorem hufDecResult : Obligations.HufDecResult := by
  intro s hs start bits moved returns exhausted full
  refine ⟨fun hsel => command_errored (k := .invalidInput) hs (by decide) (if_pos hsel),
    ⟨remainingBits_length s, fun _ => remainingBits_getElem?⟩, fun hsel hsrc => ⟨?loop, ?codes⟩⟩
  case loop =>
    have hd : ∀ e : DecodeEnd, (decodedOf s).ending = e → decodedOf s = ⟨(decodedOf s).out, (decodedOf s).used, e⟩ := by
      rintro _ rfl
      rfl
    exact ⟨fun h => hufDec_returned hs hsel hsrc (hd _ h), fun h => hufDec_exhausted hs hsel hsrc (hd _ h),
      fun h hcap => hufDec_full hs hsel hsrc hcap (hd _ h)⟩
  case codes =>
    intro hpf hfit hcap xs tail hxs htail hbits cap count size
    refine ⟨fun hctl => ?legacy, fun hctl => ?bounded⟩
    case legacy =>
      have hbound : bounded s = false := by simpa [bounded] using hctl
      have hwant : ∀ n : Nat, bounded s = true → n < count := fun n h => absurd (hbound.symm.trans h) Bool.false_ne_true
      refine ⟨fun hlen => hufDec_returned hs hsel hsrc ?_,
        fun hlen => hufDec_full hs hsel hsrc hcap (decodedOf_full hpf hfit hxs hbits hlen (hwant cap))⟩
      rw [decodedOf_all hpf hfit hxs htail hbits hlen (hwant _), hbound]
      rfl
    case bounded =>
      have hbound : bounded s = true := by simpa [bounded] using hctl
      refine ⟨fun hcount hroom => hufDec_returned hs hsel hsrc ?_,
        fun hcount hlen => hufDec_exhausted hs hsel hsrc (out := xs) ?_,
        fun hcount hlen => hufDec_full hs hsel hsrc hcap (decodedOf_full hpf hfit hxs hbits hlen fun _ => hcount)⟩
      · have hlen : (xs.take count).length = count := List.length_take_of_le hcount
        exact decodedOf_enough hpf hfit (fun x hx => hxs x (List.mem_of_mem_take hx))
          (hbits.trans (streamBits_take_append _ _ _ _)) (hlen.le.trans hroom) hbound hlen
      · rw [decodedOf_all hpf hfit hxs htail hbits hlen fun _ => hcount, hbound]
        rfl

end Sys2Proof.Proofs
end

/-! ## Codes written and decoded -/

section

namespace Sys2Proof.Proofs

open Sys2Proof.Machine Sys2Proof.Laws Sys2Proof.Claims

/-- The codes of `SRC`, written from an empty writer and flushed (43_huffman.md R164). -/
theorem execList_encode_flush {s : State} (hs : Ready s) (hcap : s.cap.Valid) (hsrc : s.srcLen.toNat ≤ s.cap.bufCap)
    (hcoded : ∀ x ∈ bufferBytes s .src, (s.code.get x).len ≠ 0#8)
    (hlen : (streamBits s.code (bufferBytes s .src)).length ≤ 8 * s.cap.bufCap) :
    ∃ (t : State) (pad : Nat), execList [.bsWinit, .hufEnc, .bsFlush] s = .next t ∧ Ready t ∧ t.wN = 0#3 ∧
      writerStream t = streamBits s.code (bufferBytes s .src) ++ List.replicate pad false ∧
      t = { s with bsw := t.bsw, wLen := t.wLen, wAcc := t.wAcc, wN := t.wN,
                   err := t.err, errInfo := t.errInfo, errCmd := t.errCmd } := by
  have hinit : exec .bsWinit s = .next (clearWriter s) := command_done hs rfl
  have hroom : RoomFor (streamBits s.code (bufferBytes s .src)).length (clearWriter s) := by
    rw [roomFor_iff, show writerStream (clearWriter s) = [] from rfl, clearWriter_cap, List.length_nil]
    omega
  obtain ⟨u, hu, hinv, hstream, hframe⟩ :=
    hufEnc_done (s := clearWriter s) hs hcap ⟨rfl, Nat.zero_le _⟩ hsrc hcoded hroom
  have hucap : u.cap = s.cap := by rw [hframe]; rfl
  have hustream : writerStream u = streamBits s.code (bufferBytes s .src) := hstream
  obtain ⟨t, pad, ht, htready, hn, _, htstream⟩ := bsFlush_done (s := u) (by rw [hframe]; exact hs) (hucap ▸ hcap) hinv
    (by rw [hustream, hucap]; exact hlen)
  obtain ⟨htframe, _⟩ := writerCommandsFrame u t 0 0 (hucap ▸ hcap) .bsFlush (by simp) ht
  refine ⟨t, pad, ?_, htready, hn, hustream ▸ htstream, ?_⟩
  · simp only [execList, hinit, hu, ht]
  · rw [hframe] at htframe
    exact htframe

/-- `HUF.DEC` in bounded mode finds the symbols it wants at the front of the remaining bits (43_huffman.md R166). -/
theorem Reading.hufDec {t : State} {bits tail : List Bool} {xs : List Byte} (h : Reading bits t)
    (hbits : bits = streamBits t.code xs ++ tail) (hsel : t.rSel ≠ 1#2) (hpf : PrefixFree t.code)
    (hfit : CodesFit t.code) (hxs : ∀ x ∈ xs, (t.code.get x).len ≠ 0#8)
    (hroom : xs.length ≤ t.cap.bufCap) (hbound : bounded t = true) (hcount : xs.length = t.symCnt.toNat) :
    ∃ u : State, exec .hufDec t = .next u ∧ Ready u ∧ bufferBytes u .dst = xs :=
  ⟨_, hufDec_returned h.ready hsel h.notBlocked
      (decodedOf_enough hpf hfit hxs (h.remaining.trans hbits) hroom hbound hcount),
    h.ready, bufferBytes_putDst xs _ (hcount ▸ t.symCnt.isLt)⟩

/-- Settles O41: the decoder finds the codes of the source at the front of what the encoder wrote. -/
theorem hufEncodeDecodeRoundTrip : Obligations.HufEncodeDecodeRoundTrip := by
  intro s l hs hcap hsrc hctl hcnt hcanon hcoded hlen
  obtain ⟨hpf, hfit⟩ := prefixFree_canonical hcanon
  obtain ⟨t, pad, ht, hready, hn, hstream, hframe⟩ := execList_encode_flush hs hcap hsrc hcoded hlen
  have hcode : t.code = s.code := by rw [hframe]
  have hbuf : t.cap = s.cap := by rw [hframe]
  have hbound : bounded t = true := by rw [hframe, bounded, hctl]; rfl
  have hcount : (bufferBytes s .src).length = t.symCnt.toNat := by rw [hframe, hcnt, sourceBytes_length]
  rw [← hcode] at hstream hpf hfit hcoded
  have hroom : (bufferBytes s .src).length ≤ t.cap.bufCap := by rw [hbuf, sourceBytes_length]; exact hsrc
  obtain ⟨u, hu, huready, hbytes⟩ := (reading_bsw hready hn).hufDec hstream (by decide : (2#2 : BitVec 2) ≠ 1#2)
    hpf hfit hcoded hroom hbound hcount
  refine ⟨u, ?_, huready, hbytes⟩
  have hrest : execList [.bsRinit 2, .hufDec] t = .next u := by
    simp only [execList, writerAndReaderConstruction.2 t 2 hready (by decide), hu]
  rw [← hrest, ← execList_append ht]
  rfl

end Sys2Proof.Proofs
end

/-! ## The frequency table and the stored tree -/

section

namespace Sys2Proof.Proofs

open Sys2Proof.Machine Sys2Proof.Laws Sys2Proof.Claims

/-- Settles O32: a count is at most the number of bytes, so it fits its entry. -/
theorem hufFreqCounts : Obligations.HufFreqCounts := by
  intro s hs _ hsrc
  refine ⟨{ s with freq := countFreq (bufferBytes s .src) }, command_done hs (by simp only [sourceBytes_ok hsrc]), rfl,
    fun x => ?_⟩
  have hcount : (bufferBytes s .src).count x ≤ s.srcLen.toNat := sourceBytes_length s ▸ List.count_le_length
  show ((countFreq (bufferBytes s .src)).get x).toNat = _
  rw [countFreq, get_ofFn]
  exact toNat_ofNat_of_lt (Nat.lt_of_le_of_lt hcount s.srcLen.isLt)

/-- The leaves are those of the symbols that occur, ascending (43_huffman.md R154). -/
theorem leavesOf_eq (f : Table (BitVec 64)) :
    leavesOf f = (allSymbols.filter fun x => f.get x != 0#64).map fun x => leafNode x (f.get x) := by
  rw [leavesOf, table_entries, List.zip_map_right, List.zip_eq_zipWith, List.zipWith_self, List.map_map,
    List.filter_map, List.map_map]
  rfl

theorem leavesOf_length (f : Table (BitVec 64)) :
    (leavesOf f).length = allSymbols.countP fun x => f.get x != 0#64 := by
  rw [leavesOf_eq, List.length_map, List.countP_eq_length_filter]

/-- Without a symbol that occurs the tree is absent (43_huffman.md R154). -/
theorem buildTree_absent {f : Table (BitVec 64)} (h : ∀ x : Byte, f.get x = 0#64) : buildTree f = ([], none) := by
  have hnil : leavesOf f = [] := by simp [leavesOf_eq, h]
  simp only [buildTree, hnil]
  rfl

/-- `HUF.BUILD` with a total that fits (43_huffman.md R155). -/
theorem hufBuild_done {s : State} (hs : Ready s) (htotal : freqTotal s.freq < 2 ^ 64) :
    exec .hufBuild s = .next { s with
      node := Sparse.ofList (buildTree s.freq).1, nodeCnt := BitVec.ofNat 10 (buildTree s.freq).1.length,
      root := rootIndex (buildTree s.freq).2 } :=
  command_done hs (if_neg (Nat.not_le.mpr htotal))

/-- Settles O33. -/
theorem hufBuildResult : Obligations.HufBuildResult := by
  intro s hs
  refine ⟨hufBuild_done hs, fun htotal => ?refused, fun hzero => ?absent⟩
  case refused => exact command_errored (k := .invalidInput) hs (by decide) (if_pos htotal)
  case absent =>
    have htotal : freqTotal s.freq = 0 := by
      refine List.sum_eq_zero fun n hn => ?_
      obtain ⟨v, hv, rfl⟩ := List.mem_map.mp hn
      rw [table_entries] at hv
      obtain ⟨x, _, rfl⟩ := List.mem_map.mp hv
      rw [hzero]
      rfl
    refine ⟨_, hufBuild_done hs (htotal ▸ Nat.two_pow_pos 64), ?_⟩
    simp only [buildTree_absent hzero]
    exact ⟨rfl, rfl, rfl⟩

end Sys2Proof.Proofs
end

/-! ## The tree builder -/

section

namespace Sys2Proof.Proofs

open Sys2Proof.Machine Sys2Proof.Laws Sys2Proof.Claims

/-! ### The queue -/

/-- The order of the queue (43_huffman.md R152). -/
def NodeFirst (a b : Node) : Prop :=
  a.freq.toNat < b.freq.toNat ∨ (a.freq.toNat = b.freq.toNat ∧ a.key.toNat < b.key.toNat)

theorem nodeBefore_iff {a b : Node} : nodeBefore a b = true ↔ NodeFirst a b := by
  simp [nodeBefore, NodeFirst, ← BitVec.toNat_inj]

/-- Of two nodes with different keys one is before the other. -/
theorem nodeFirst_of_not {a b : Node} (hkey : a.key ≠ b.key) (h : ¬ NodeFirst b a) : NodeFirst a b := by
  have hne : a.key.toNat ≠ b.key.toNat := fun e => hkey (BitVec.eq_of_toNat_eq e)
  unfold NodeFirst at *
  omega

theorem firstInQueue_first (q : QueueEntry) (qs : List QueueEntry) :
    ∀ r ∈ q :: qs, ¬ NodeFirst r.2 (firstInQueue q qs).2 := by
  induction qs generalizing q with
  | nil => simp [firstInQueue, NodeFirst]
  | cons p qs ih =>
    unfold firstInQueue
    split
    next hp =>
      have hp := nodeBefore_iff.mp hp
      have hfirst := ih p p List.mem_cons_self
      refine List.forall_mem_cons.mpr ⟨fun hq => ?_, ih p⟩
      unfold NodeFirst at *
      omega
    next hp =>
      have hp := nodeBefore_iff.not.mp hp
      obtain ⟨hq, hqs⟩ := List.forall_mem_cons.mp (ih q)
      refine List.forall_mem_cons.mpr ⟨hq, List.forall_mem_cons.mpr ⟨fun hp' => ?_, hqs⟩⟩
      unfold NodeFirst at *
      omega

/-- A pop takes the first entry in the order and leaves the others (43_huffman.md R154). -/
theorem popFirst_perm {qs rest : List QueueEntry} {m : QueueEntry} (hnodup : (qs.map Prod.fst).Nodup)
    (h : popFirst qs = some (m, rest)) : qs.Perm (m :: rest) ∧ ∀ r ∈ rest, ¬ NodeFirst r.2 m.2 := by
  cases qs with
  | nil => cases h
  | cons q qs =>
    cases h
    have hm := firstInQueue_mem q qs
    have hfirst := firstInQueue_first q qs
    generalize firstInQueue q qs = m at hm hfirst ⊢
    have hrest : removeFromQueue m.1 (q :: qs) = (q :: qs).erase m := by
      rw [(List.Nodup.of_map _ hnodup).erase_eq_filter]
      refine List.filter_congr fun r hr => ?_
      rw [Bool.eq_iff_iff, bne_iff_ne, bne_iff_ne, ne_eq, ne_eq, not_iff_not]
      exact ⟨List.inj_on_of_nodup_map hnodup hr hm, congrArg Prod.fst⟩
    rw [hrest]
    exact ⟨List.perm_cons_erase hm, fun r hr => hfirst r (List.mem_of_mem_erase hr)⟩

theorem popFirst_isSome {qs : List QueueEntry} (h : qs ≠ []) : ∃ m rest, popFirst qs = some (m, rest) := by
  cases qs with
  | nil => exact absurd rfl h
  | cons q qs => exact ⟨_, _, rfl⟩

/-! ### The shape of the arena -/

/-- Node `i` is a leaf of a symbol of `f`, greater than the symbols of the nodes before it (43_huffman.md R154). -/
def LeafShape (f : Table (BitVec 64)) (arena : List Node) (i : Nat) (n : Node) : Prop :=
  n.kind = .leaf ∧ n.freq = f.get n.sym ∧ n.freq ≠ 0#64 ∧ n.key = n.sym ∧
    ∀ (j : Nat) (n' : Node), j < i → arena[j]? = some n' → n'.sym.toNat < n.sym.toNat

/-- Node `j` is before node `i` and is no child of an internal node before it, when the first `k` nodes are the
leaves (43_huffman.md R154). -/
def Waiting (k : Nat) (arena : List Node) (i j : Nat) : Prop :=
  j < i ∧ ∀ (m : Nat) (n : Node), k ≤ m → m < i → arena[m]? = some n → n.left.toNat ≠ j ∧ n.right.toNat ≠ j

/-- Node `i` merges the first two of the nodes waiting (43_huffman.md R154). -/
def InternalShape (k : Nat) (arena : List Node) (i : Nat) (n : Node) : Prop :=
  n.kind = .internal ∧ n.left ≠ n.right ∧ Waiting k arena i n.left.toNat ∧ Waiting k arena i n.right.toNat ∧
    ∃ a b : Node, arena[n.left.toNat]? = some a ∧ arena[n.right.toNat]? = some b ∧ NodeFirst a b ∧
      n.freq = a.freq + b.freq ∧ n.key.toNat = min a.key.toNat b.key.toNat ∧
      ∀ (j : Nat) (c : Node), Waiting k arena i j → j ≠ n.left.toNat → j ≠ n.right.toNat → arena[j]? = some c →
        NodeFirst b c

section
variable {f : Table (BitVec 64)} {k i : Nat} {arena arena' : List Node} {n : Node}

/-! The shape of an internal node speaks of the nodes before it only, so a longer arena keeps it. -/

theorem waiting_congr (hsame : ∀ j < i, arena'[j]? = arena[j]?) {j : Nat} :
    Waiting k arena' i j ↔ Waiting k arena i j := by
  refine and_congr_right fun _ => forall₂_congr fun m n => imp_congr_right fun _ => forall_congr' fun hm => ?_
  rw [hsame m hm]

theorem InternalShape.congr (hsame : ∀ j < i, arena'[j]? = arena[j]?) (h : InternalShape k arena i n) :
    InternalShape k arena' i n := by
  obtain ⟨hkind, hne, hleft, hright, a, b, ha, hb, hab, hfreq, hkey, hfirst⟩ := h
  refine ⟨hkind, hne, (waiting_congr hsame).mpr hleft, (waiting_congr hsame).mpr hright, a, b,
    (hsame _ hleft.1).trans ha, (hsame _ hright.1).trans hb, hab, hfreq, hkey, fun j c hj hjl hjr hc => ?_⟩
  have hj := (waiting_congr hsame).mp hj
  exact hfirst j c hj hjl hjr ((hsame j hj.1).symm.trans hc)

end

/-! ### The merging loop -/

/-- What holds before every round of the merging loop with `k` leaves (43_huffman.md R154). -/
structure Merging (f : Table (BitVec 64)) (k : Nat) (arena : List Node) (qs : List QueueEntry) : Prop where
  leafCount : (leavesOf f).length = k
  total : arena.length + qs.length = 2 * k
  leaves : leavesOf f <+: arena
  internal : ∀ (i : Nat) (n : Node), arena[i]? = some n → k ≤ i → InternalShape k arena i n
  /-- The queue holds nodes of the arena with their indices. -/
  entry : ∀ q ∈ qs, arena[q.1]? = some q.2
  indices : (qs.map Prod.fst).Nodup
  /-- The keys of the waiting nodes are the smallest symbols of disjoint subtrees. -/
  keys : (qs.map fun q => q.2.key).Nodup
  waiting : ∀ j : Nat, Waiting k arena arena.length j ↔ j ∈ qs.map Prod.fst
  /-- The node added last waits. -/
  last : qs.getLast?.map Prod.fst = some (arena.length - 1)

section
variable {f : Table (BitVec 64)} {k : Nat} {arena : List Node} {qs rest rest' : List QueueEntry} {a b : QueueEntry}

theorem Merging.leavesLe (h : Merging f k arena qs) : k ≤ arena.length := h.leafCount ▸ h.leaves.length_le

theorem Merging.entry_lt (h : Merging f k arena qs) {q : QueueEntry} (hq : q ∈ qs) : q.1 < arena.length :=
  (List.getElem?_eq_some_iff.mp (h.entry q hq)).1

/-- The two pops of a round take the first two waiting nodes, whose keys differ from those of the rest. -/
theorem Merging.popped (h : Merging f k arena qs) (ha : popFirst qs = some (a, rest))
    (hb : popFirst rest = some (b, rest')) :
    qs.Perm (a :: b :: rest') ∧ NodeFirst a.2 b.2 ∧ ∀ r ∈ rest', NodeFirst b.2 r.2 := by
  obtain ⟨hpa, hfa⟩ := popFirst_perm h.indices ha
  have hindices := (hpa.map Prod.fst).nodup_iff.mp h.indices
  obtain ⟨hpb, hfb⟩ := popFirst_perm (List.nodup_cons.mp hindices).2 hb
  have hperm := hpa.trans (hpb.cons a)
  have hkeys := (hperm.map fun q => q.2.key).nodup_iff.mp h.keys
  simp only [List.map_cons, List.nodup_cons, List.mem_cons, not_or] at hkeys
  obtain ⟨⟨hab, _⟩, hbrest, _⟩ := hkeys
  refine ⟨hperm, nodeFirst_of_not hab (hfa b (hpb.mem_iff.mpr List.mem_cons_self)), fun r hr => ?_⟩
  exact nodeFirst_of_not (fun e => hbrest (e ▸ List.mem_map_of_mem hr)) (hfb r hr)

/-- The indices of the arena fit the 10 bits of a child (10_state.md R41). -/
theorem Merging.toNat_child (h : Merging f k arena qs) (hk : k ≤ 256) {q : QueueEntry} (hq : q ∈ qs) :
    (BitVec.ofNat 10 q.1).toNat = q.1 := by
  have hlt := h.entry_lt hq
  have htotal := h.total
  exact toNat_ofNat_of_lt (by omega)

section
variable (h : Merging f k arena qs) (hk : k ≤ 256) (hperm : qs.Perm (a :: b :: rest'))
include h hk hperm

theorem Merging.toNat_children :
    (parentNode a b).left.toNat = a.1 ∧ (parentNode a b).right.toNat = b.1 :=
  ⟨h.toNat_child hk (hperm.mem_iff.mpr (by simp)), h.toNat_child hk (hperm.mem_iff.mpr (by simp))⟩

/-- The parent of the popped nodes has the shape of an internal node (43_huffman.md R154). -/
theorem Merging.internalShape_parent (hab : NodeFirst a.2 b.2) (hrest : ∀ r ∈ rest', NodeFirst b.2 r.2) :
    InternalShape k arena arena.length (parentNode a b) := by
  obtain ⟨hleft, hright⟩ := h.toNat_children hk hperm
  have hmem : ∀ q ∈ a :: b :: rest', q ∈ qs := fun q => hperm.mem_iff.mpr
  have hwait : ∀ q ∈ a :: b :: rest', Waiting k arena arena.length q.1 := fun q hq =>
    (h.waiting q.1).mpr (List.mem_map_of_mem (hmem q hq))
  have hindices := (hperm.map Prod.fst).nodup_iff.mp h.indices
  have hne : a.1 ≠ b.1 := by simp at hindices; tauto
  refine ⟨rfl, fun e => hne (by rw [← hleft, ← hright, e]), by rw [hleft]; exact hwait a (by simp),
    by rw [hright]; exact hwait b (by simp), a.2, b.2, by rw [hleft]; exact h.entry a (hmem a (by simp)),
    by rw [hright]; exact h.entry b (hmem b (by simp)), hab, rfl, ?key, fun j c hj hja hjb hc => ?first⟩
  case key =>
    simp only [parentNode]
    split <;> omega
  case first =>
    rw [hleft] at hja
    rw [hright] at hjb
    obtain ⟨r, hr, rfl⟩ := List.mem_map.mp ((h.waiting j).mp hj)
    obtain rfl : r.2 = c := Option.some.inj ((h.entry r hr).symm.trans hc)
    have hr' := hperm.mem_iff.mp hr
    simp only [List.mem_cons] at hr'
    rcases hr' with rfl | rfl | hr'
    · exact absurd rfl hja
    · exact absurd rfl hjb
    · exact hrest r hr'

/-- After a round the parent waits, and the nodes that waited before but were not popped. -/
theorem Merging.waiting_parent (j : Nat) : Waiting k (arena ++ [parentNode a b]) (arena.length + 1) j ↔
    j = arena.length ∨ (Waiting k arena arena.length j ∧ a.1 ≠ j ∧ b.1 ≠ j) := by
  obtain ⟨hleft, hright⟩ := h.toNat_children hk hperm
  have hlta := h.entry_lt (hperm.mem_iff.mpr (by simp) : a ∈ qs)
  have hltb := h.entry_lt (hperm.mem_iff.mpr (by simp) : b ∈ qs)
  have hold : ∀ m < arena.length, (arena ++ [parentNode a b])[m]? = arena[m]? := fun m => List.getElem?_append_left
  have hnew : (arena ++ [parentNode a b])[arena.length]? = some (parentNode a b) := List.getElem?_concat_length
  constructor
  · rintro ⟨hj, hfree⟩
    by_cases hjl : j = arena.length
    · exact .inl hjl
    · have hparent := hfree _ _ h.leavesLe (Nat.lt_succ_self _) hnew
      rw [hleft, hright] at hparent
      exact .inr ⟨⟨by omega, fun m n hkm hm hn => hfree m n hkm (by omega) ((hold m hm).trans hn)⟩, hparent⟩
  · intro hj
    refine ⟨?_, fun m n hkm hm hn => ?_⟩
    · rcases hj with rfl | ⟨⟨hlt, _⟩, _⟩ <;> omega
    · rcases Nat.lt_succ_iff_lt_or_eq.mp hm with hm | rfl
      · rw [hold m hm] at hn
        obtain ⟨_, _, ⟨hl, _⟩, ⟨hr, _⟩, _⟩ := h.internal m n hn hkm
        rcases hj with rfl | ⟨⟨_, hfree⟩, _⟩
        · omega
        · exact hfree m n hkm hm hn
      · obtain rfl := Option.some.inj (hnew.symm.trans hn)
        rw [hleft, hright]
        rcases hj with rfl | ⟨_, hab⟩
        · omega
        · exact hab

end

/-- A round replaces the first two waiting nodes by their parent (43_huffman.md R154). -/
theorem Merging.round (h : Merging f k arena qs) (hk : k ≤ 256) (ha : popFirst qs = some (a, rest))
    (hb : popFirst rest = some (b, rest')) :
    Merging f k (arena ++ [parentNode a b]) (rest' ++ [(arena.length, parentNode a b)]) := by
  obtain ⟨hperm, hab, hrest⟩ := h.popped ha hb
  have hmem : ∀ q ∈ rest', q ∈ qs := fun q hq => hperm.mem_iff.mpr (by simp [hq])
  have hold : ∀ i ≤ arena.length, ∀ m < i, (arena ++ [parentNode a b])[m]? = arena[m]? := fun i hi m hm =>
    List.getElem?_append_left (by omega)
  have hnew : (arena ++ [parentNode a b])[arena.length]? = some (parentNode a b) := List.getElem?_concat_length
  have hindices := (hperm.map Prod.fst).nodup_iff.mp h.indices
  have hkeys := (hperm.map fun q => q.2.key).nodup_iff.mp h.keys
  simp only [List.map_cons, List.nodup_cons, List.mem_cons, not_or] at hindices hkeys
  obtain ⟨⟨_, hia⟩, hib, hirest⟩ := hindices
  obtain ⟨⟨_, hka⟩, hkb, hkrest⟩ := hkeys
  have hlt : ∀ (i : Nat) (n : Node), (arena ++ [parentNode a b])[i]? = some n → i ≤ arena.length := fun i n hn => by
    have := (List.getElem?_eq_some_iff.mp hn).1
    rw [List.length_append, List.length_singleton] at this
    omega
  constructor
  case total =>
    have hlen := hperm.length_eq
    have htotal := h.total
    simp only [List.length_append, List.length_cons, List.length_nil] at hlen ⊢
    omega
  case leafCount => exact h.leafCount
  case leaves => exact h.leaves.trans (List.prefix_append _ _)
  case internal =>
    intro i n hn hi
    refine InternalShape.congr (hold i (hlt i n hn)) ?_
    rcases (hlt i n hn).lt_or_eq with hi' | rfl
    · exact h.internal i n ((hold _ le_rfl i hi').symm.trans hn) hi
    · obtain rfl := Option.some.inj (hnew.symm.trans hn)
      exact h.internalShape_parent hk hperm hab hrest
  case entry =>
    refine List.forall_mem_append.mpr ⟨fun q hq => ?_, List.forall_mem_singleton.mpr hnew⟩
    exact (hold _ le_rfl q.1 (h.entry_lt (hmem q hq))).trans (h.entry q (hmem q hq))
  case indices =>
    rw [List.map_append, List.nodup_append]
    refine ⟨hirest, List.nodup_singleton _, fun i hi j hj => ?_⟩
    obtain ⟨q, hq, rfl⟩ := List.mem_map.mp hi
    obtain rfl := List.mem_singleton.mp hj
    exact (h.entry_lt (hmem q hq)).ne
  case keys =>
    rw [List.map_append, List.nodup_append]
    refine ⟨hkrest, List.nodup_singleton _, fun x hx y hy => ?_⟩
    obtain rfl := List.mem_singleton.mp hy
    rintro rfl
    simp only [parentNode] at hx
    split at hx
    · exact hka hx
    · exact hkb hx
  case waiting =>
    intro j
    rw [List.length_append, List.length_singleton, h.waiting_parent hk hperm, h.waiting, (hperm.map Prod.fst).mem_iff]
    simp only [List.map_cons, List.mem_cons, List.map_append, List.mem_append, List.map_nil, List.not_mem_nil, or_false]
    constructor
    · rintro (rfl | ⟨rfl | rfl | hj, hja, hjb⟩) 
      · exact .inr rfl
      · exact absurd rfl hja
      · exact absurd rfl hjb
      · exact .inl hj
    · rintro (hj | rfl)
      · exact .inr ⟨.inr (.inr hj), fun e => hia (e ▸ hj), fun e => hib (e ▸ hj)⟩
      · exact .inl rfl
  case last =>
    rw [List.getLast?_concat, List.length_append]
    rfl

/-- The loop ends with the root as the only waiting node. -/
theorem mergeQueue_merging {fuel : Nat} (h : Merging f k arena qs) (hk : k ≤ 256) (hfuel : qs.length ≤ fuel + 1) :
    ∃ (arena' : List Node) (q : QueueEntry),
      mergeQueue fuel arena qs = (arena', some q.1) ∧ Merging f k arena' [q] := by
  fun_induction mergeQueue fuel arena qs with
  | case1 => cases h.last
  | case2 fuel arena q => exact ⟨arena, q, rfl, h⟩
  | case3 arena p q qs => simp at hfuel
  | case4 fuel arena q r qs hnone =>
    obtain ⟨m, rest, hm⟩ := popFirst_isSome (List.cons_ne_nil q (r :: qs))
    rw [hnone] at hm
    cases hm
  | case5 fuel arena q r qs a rest ha hnone =>
    have hlen := (popFirst_perm h.indices ha).1.length_eq
    obtain ⟨m, rest', hm⟩ := popFirst_isSome (List.ne_nil_of_length_pos (by simp at hlen; omega) : rest ≠ [])
    rw [hnone] at hm
    cases hm
  | case6 fuel arena q r qs a rest ha b rest' hb parent ih =>
    refine ih (h.round hk ha hb) ?_
    have hlen := (popFirst_some ha).2.1
    have hlen' := (popFirst_some hb).2.1
    simp at *
    omega

end

/-! ### The start -/

section
variable {α : Type}

theorem ofList_getElem? (xs : List α) (j : Nat) : (Sparse.ofList xs)[j]? = xs[j]?.map fun x => (j, x) := by
  have hfrom : ∀ (ys : List α) (i j : Nat), (Sparse.listFrom i ys)[j]? = ys[j]?.map fun y => (i + j, y) := fun ys => by
    induction ys with
    | nil => exact fun _ _ => rfl
    | cons y ys ih =>
      intro i j
      cases j with
      | zero => rfl
      | succ j => simp only [Sparse.listFrom, List.getElem?_cons_succ, ih, Nat.add_assoc, Nat.add_comm 1]
  simpa [Sparse.ofList] using hfrom xs 0 j

theorem mem_ofList {xs : List α} {p : Nat × α} : p ∈ Sparse.ofList xs ↔ xs[p.1]? = some p.2 := by
  rw [List.mem_iff_getElem?]
  simp only [ofList_getElem?, Option.map_eq_some_iff]
  constructor
  · rintro ⟨j, x, hx, rfl⟩
    exact hx
  · intro hp
    exact ⟨p.1, p.2, hp, rfl⟩

theorem ofList_map_snd (xs : List α) : (Sparse.ofList xs).map Prod.snd = xs :=
  List.ext_getElem? fun j => by simp [ofList_getElem?, Option.map_map, Function.comp_def]

end

theorem leavesOf_shape {f : Table (BitVec 64)} {n : Node} (h : n ∈ leavesOf f) :
    n.kind = .leaf ∧ n.freq = f.get n.sym ∧ n.freq ≠ 0#64 ∧ n.key = n.sym := by
  rw [leavesOf_eq] at h
  obtain ⟨x, hx, rfl⟩ := List.mem_map.mp h
  exact ⟨rfl, rfl, bne_iff_ne.mp (List.mem_filter.mp hx).2, rfl⟩

theorem leavesOf_ascending (f : Table (BitVec 64)) :
    (leavesOf f).Pairwise fun n n' => n.sym.toNat < n'.sym.toNat := by
  rw [leavesOf_eq, List.pairwise_map]
  exact pairwise_allSymbols.filter _

/-- The first nodes of the arena are the leaves (43_huffman.md R154). -/
theorem Merging.leaf {f : Table (BitVec 64)} {k i : Nat} {arena : List Node} {qs : List QueueEntry} {n : Node}
    (h : Merging f k arena qs) (hn : arena[i]? = some n) (hi : i < k) : LeafShape f arena i n := by
  have hleaf : ∀ {j : Nat} {m : Node}, arena[j]? = some m → j < k →
      ∃ hj : j < (leavesOf f).length, (leavesOf f)[j] = m := by
    intro j m hm hj
    rw [← h.leafCount] at hj
    exact ⟨hj, Option.some.inj ((List.prefix_iff_getElem?.mp h.leaves j hj).symm.trans hm)⟩
  obtain ⟨hi', hni⟩ := hleaf hn hi
  obtain ⟨hkind, hfreq, hne, hkey⟩ := leavesOf_shape (hni ▸ List.getElem_mem hi')
  refine ⟨hkind, hfreq, hne, hkey, fun j m hj hm => ?_⟩
  obtain ⟨hj', hmj⟩ := hleaf hm (hj.trans hi)
  rw [← hni, ← hmj]
  exact List.pairwise_iff_getElem.mp (leavesOf_ascending f) j i hj' hi' hj

/-- The loop starts with the leaves waiting. -/
theorem merging_leaves {f : Table (BitVec 64)} (h : leavesOf f ≠ []) :
    Merging f (leavesOf f).length (leavesOf f) (Sparse.ofList (leavesOf f)) := by
  have hlt : ∀ {i : Nat} {n : Node}, (leavesOf f)[i]? = some n → i < (leavesOf f).length := fun hn =>
    (List.getElem?_eq_some_iff.mp hn).1
  constructor
  case total => rw [ofList_length, Nat.two_mul]
  case leafCount => rfl
  case leaves => exact List.prefix_rfl
  case internal => exact fun i n hn hi => absurd (hlt hn) (Nat.not_lt.mpr hi)
  case entry => exact fun q hq => mem_ofList.mp hq
  case indices =>
    exact List.pairwise_map.mpr ((pairwise_listFrom (leavesOf f) 0).imp Nat.ne_of_lt)
  case keys =>
    rw [show (fun q : QueueEntry => q.2.key) = Node.key ∘ Prod.snd from rfl, ← List.map_map, ofList_map_snd,
      leavesOf_eq, List.map_map]
    exact (allSymbols_nodup.filter _).map fun x y h => h
  case waiting =>
    intro j
    simp only [List.mem_map, Prod.exists, mem_ofList]
    constructor
    · rintro ⟨hj, _⟩
      exact ⟨j, (leavesOf f)[j], List.getElem?_eq_getElem hj, rfl⟩
    · rintro ⟨i, n, hn, rfl⟩
      exact ⟨hlt hn, fun m _ hm hm' => absurd hm' (Nat.not_lt.mpr hm)⟩
  case last =>
    have hpos := List.length_pos_of_ne_nil h
    rw [List.getLast?_eq_getElem?, ofList_length, ofList_getElem?,
      List.getElem?_eq_getElem (Nat.sub_lt hpos Nat.one_pos)]
    rfl

/-- The tree of a table with `k` leaves, at least one (43_huffman.md R154). -/
theorem buildTree_merging {f : Table (BitVec 64)} {k : Nat} (hk : k = allSymbols.countP fun x => f.get x != 0#64)
    (h1 : 1 ≤ k) : (buildTree f).2 = some (2 * k - 2) ∧ ∃ n : Node, Merging f k (buildTree f).1 [(2 * k - 2, n)] := by
  rw [← leavesOf_length] at hk
  subst hk
  obtain ⟨arena, q, hmerge, h⟩ := mergeQueue_merging (merging_leaves (List.ne_nil_of_length_pos h1))
    (leavesOf_length_le f) (by rw [ofList_length]; exact Nat.le_succ _)
  have hroot : q.1 = 2 * (leavesOf f).length - 2 := by
    have hlast : q.1 = arena.length - 1 := Option.some.inj h.last
    have htotal : arena.length + 1 = 2 * (leavesOf f).length := h.total
    omega
  rw [show buildTree f = (arena, some q.1) from hmerge, ← hroot]
  exact ⟨rfl, q.2, h⟩

/-- Settles O34: what holds before every round holds at the end, when only the root waits. -/
theorem buildTreeShape : Obligations.BuildTreeShape := by
  intro f k hk h1 arena first waiting
  obtain ⟨hroot, n, h⟩ := buildTree_merging hk h1
  have htotal : arena.length + 1 = 2 * k := h.total
  exact ⟨by omega, hroot, fun i n hn => ⟨h.leaf hn, h.internal i n hn⟩⟩

end Sys2Proof.Proofs
end

/-! ## Tree-order codes -/

section

namespace Sys2Proof.Proofs

open Sys2Proof.Machine Sys2Proof.Laws Sys2Proof.Claims

/-! ### Walks -/

section
variable {arena : List Node} {i : Nat} {n m : Node}

/-- A walk from a leaf is at its end (43_huffman.md R156). -/
theorem walkTree_leaf {path : List Bool} (hn : arena[i]? = some n) (hk : n.kind = .leaf) :
    walkTree arena i path = some m ↔ path = [] ∧ n = m := by
  cases path with
  | nil => simp [walkTree, hn]
  | cons b path => simp [walkTree, hn, hk]

/-- A walk that goes on goes through an internal node. -/
theorem walkTree_cons_some {b : Bool} {path : List Bool} (hm : walkTree arena i (b :: path) = some m) :
    ∃ n : Node, arena[i]? = some n ∧ n.kind = .internal ∧
      walkTree arena (if b then n.right.toNat else n.left.toNat) path = some m := by
  cases hn : arena[i]? with
  | none => simp [walkTree, hn] at hm
  | some n =>
    cases hk : n.kind with
    | leaf => simp [walkTree, hn, hk] at hm
    | internal => exact ⟨n, rfl, hk, (walkTree_cons b path hn hk).symm.trans hm⟩

/-- A walk that leads to a leaf goes no further. -/
theorem walkTree_append_leaf {path rest : List Bool} (hn : walkTree arena i path = some n) (hk : n.kind = .leaf)
    (hm : walkTree arena i (path ++ rest) = some m) : rest = [] ∧ n = m := by
  induction path generalizing i with
  | nil => exact (walkTree_leaf hn hk).mp hm
  | cons b path ih =>
    obtain ⟨a, hi, ha, hn⟩ := walkTree_cons_some hn
    rw [List.cons_append, walkTree_cons b _ hi ha] at hm
    exact ih hn hm

/-- The children of the internal nodes stand before them, which bounds every walk. -/
def Descending (arena : List Node) : Prop := ∀ (i : Nat) (n : Node), arena[i]? = some n → n.kind = .internal →
  n.left.toNat < i ∧ n.right.toNat < i

theorem Descending.child_lt (h : Descending arena) (hn : arena[i]? = some n) (hk : n.kind = .internal) (b : Bool) :
    (if b then n.right.toNat else n.left.toNat) < i := by
  obtain ⟨hleft, hright⟩ := h i n hn hk
  cases b
  · exact hleft
  · exact hright

/-- With enough fuel the paths listed below node `i`, which the bits `p` lead to, are the walks from `i` to a leaf
(43_huffman.md R156). -/
theorem mem_pathsFrom (h : Descending arena) {fuel : Nat} (hfuel : i < fuel) (p : List Bool) (e : Byte × CodeEntry) :
    e ∈ pathsFrom arena fuel i p.length (bitsValue p) ↔ ∃ (path : List Bool) (n : Node),
      walkTree arena i path = some n ∧ n.kind = .leaf ∧
        e = (n.sym, ⟨BitVec.ofNat 8 (p ++ path).length, bitsValue (p ++ path)⟩) := by
  induction fuel generalizing i p with
  | zero => exact absurd hfuel (Nat.not_lt_zero i)
  | succ fuel ih =>
    cases hi : arena[i]? with
    | none =>
      have hnone : ∀ path : List Bool, walkTree arena i path = none := fun path => by cases path <;> simp [walkTree, hi]
      simp [pathsFrom, hi, hnone]
    | some a =>
      cases ha : a.kind with
      | leaf => simp [pathsFrom, hi, ha, walkTree_leaf hi ha]
      | internal =>
        have hlt := fun b => Nat.lt_of_lt_of_le (h.child_lt hi ha b) (Nat.le_of_lt_succ hfuel)
        have hleft := ih (hlt false) (p ++ [false])
        have hright := ih (hlt true) (p ++ [true])
        rw [List.length_append, List.length_singleton, bitsValue_concat] at hleft hright
        simp only [pathsFrom, hi, ha, List.mem_append]
        refine (or_congr hleft hright).trans ?_
        constructor
        · rintro (⟨path, n, hn, hk, rfl⟩ | ⟨path, n, hn, hk, rfl⟩)
          · exact ⟨false :: path, n, (walkTree_cons false path hi ha).trans hn, hk, by rw [List.append_assoc]; rfl⟩
          · exact ⟨true :: path, n, (walkTree_cons true path hi ha).trans hn, hk, by rw [List.append_assoc]; rfl⟩
        · rintro ⟨path, n, hn, hk, rfl⟩
          cases path with
          | nil =>
            obtain rfl : a = n := Option.some.inj (hi.symm.trans hn)
            rw [ha] at hk
            cases hk
          | cons b path =>
            rw [walkTree_cons b path hi ha] at hn
            rw [← List.singleton_append, ← List.append_assoc]
            cases b
            · exact .inl ⟨path, n, hn, hk, rfl⟩
            · exact .inr ⟨path, n, hn, hk, rfl⟩

end

/-! ### The walks of a finished tree -/

section
variable {f : Table (BitVec 64)} {k : Nat} {arena : List Node} {root : QueueEntry}

/-- Internal nodes are those from index `k` on (43_huffman.md R154). -/
theorem Merging.kind_iff {qs : List QueueEntry} (h : Merging f k arena qs) {i : Nat} {n : Node}
    (hn : arena[i]? = some n) : n.kind = .internal ↔ k ≤ i := by
  rcases Nat.lt_or_ge i k with hi | hi
  · rw [(h.leaf hn hi).1]
    simpa using hi
  · simp [(h.internal i n hn hi).1, hi]

theorem Merging.descending {qs : List QueueEntry} (h : Merging f k arena qs) : Descending arena := by
  intro i n hn hk
  obtain ⟨_, _, ⟨hleft, _⟩, ⟨hright, _⟩, _⟩ := h.internal i n hn ((h.kind_iff hn).mp hk)
  exact ⟨hleft, hright⟩

/-- A walk visits internal nodes only, at falling indices (43_huffman.md R156). -/
theorem Merging.walk_length_le {qs : List QueueEntry} (h : Merging f k arena qs) {i : Nat} {n : Node}
    {path : List Bool} (hn : walkTree arena i path = some n) : path.length ≤ i + 1 - k := by
  induction path generalizing i with
  | nil => exact Nat.zero_le _
  | cons b path ih =>
    obtain ⟨a, hi, ha, hn⟩ := walkTree_cons_some hn
    have hk := (h.kind_iff hi).mp ha
    have hlt := h.descending.child_lt hi ha b
    have hlen := ih hn
    rw [List.length_cons]
    omega

theorem walkTree_mem {i : Nat} {n : Node} {path : List Bool} (hn : walkTree arena i path = some n) : n ∈ arena := by
  induction path generalizing i with
  | nil => exact List.mem_of_getElem? hn
  | cons b path ih =>
    obtain ⟨_, _, _, hn⟩ := walkTree_cons_some hn
    exact ih hn

/-- Every node but the root is a child of a later one, so a walk from the root leads to it. -/
theorem Merging.exists_walk (h : Merging f k arena [root]) {j : Nat} (hj : j < arena.length) :
    ∃ path : List Bool, ∀ rest : List Bool, walkTree arena root.1 (path ++ rest) = walkTree arena j rest := by
  induction hd : arena.length - j using Nat.strong_induction_on generalizing j with
  | _ d ih =>
    by_cases hroot : j = root.1
    · exact ⟨[], fun rest => by rw [hroot]; rfl⟩
    have hnot : ¬ Waiting k arena arena.length j := by
      rw [h.waiting]
      simpa using hroot
    have hparent : ∃ (m : Nat) (n : Node), k ≤ m ∧ arena[m]? = some n ∧ (n.left.toNat = j ∨ n.right.toNat = j) := by
      by_contra hno
      refine hnot ⟨hj, fun m n hkm _ hn => ⟨fun e => hno ⟨m, n, hkm, hn, .inl e⟩, fun e => hno ⟨m, n, hkm, hn, .inr e⟩⟩⟩
    obtain ⟨m, n, hkm, hn, hchild⟩ := hparent
    obtain ⟨b, hb⟩ : ∃ b : Bool, (if b then n.right.toNat else n.left.toNat) = j := by
      rcases hchild with hl | hr
      · exact ⟨false, hl⟩
      · exact ⟨true, hr⟩
    have hkind := (h.kind_iff hn).mpr hkm
    have hlt := h.descending.child_lt hn hkind b
    have hm := (List.getElem?_eq_some_iff.mp hn).1
    obtain ⟨path, hpath⟩ := ih (arena.length - m) (by omega) hm rfl
    refine ⟨path ++ [b], fun rest => ?_⟩
    rw [List.append_assoc, hpath, List.singleton_append, walkTree_cons b rest hn hkind, hb]

end

/-! ### The codes -/

/-- `path` is the walk from the root to the leaf of symbol `x`, and `e` writes it (43_huffman.md R156). -/
structure PathCode (arena : List Node) (root : Nat) (x : Byte) (e : CodeEntry) (path : List Bool) : Prop where
  entry : e = ⟨BitVec.ofNat 8 path.length, bitsValue path⟩
  nonempty : path ≠ []
  lengthLe : path.length ≤ 255
  leaf : ∃ n : Node, walkTree arena root path = some n ∧ n.kind = .leaf ∧ n.sym = x

theorem PathCode.codeBits {arena : List Node} {root : Nat} {x : Byte} {e : CodeEntry} {path : List Bool}
    (h : PathCode arena root x e path) : codeBits e = path := by
  rw [h.entry]
  exact codeBits_of_bits (Nat.lt_succ_of_le h.lengthLe)

theorem PathCode.len_toNat {arena : List Node} {root : Nat} {x : Byte} {e : CodeEntry} {path : List Bool}
    (h : PathCode arena root x e path) : e.len.toNat = path.length := by
  rw [h.entry]
  exact toNat_ofNat_of_lt (Nat.lt_succ_of_le h.lengthLe)

/-- With two leaves or more every symbol that occurs has the path to its leaf as its code, and no other symbol has a
code (43_huffman.md R156). -/
theorem treeCodes_buildTree {f : Table (BitVec 64)} {k : Nat} (hk : k = allSymbols.countP fun x => f.get x != 0#64)
    (h2 : 2 ≤ k) (x : Byte) :
    (f.get x = 0#64 → (treeCodes (buildTree f).1 (2 * k - 2)).get x = ⟨0#8, 0⟩) ∧
      (f.get x ≠ 0#64 → ∃ path : List Bool, PathCode (buildTree f).1 (2 * k - 2) x
        ((treeCodes (buildTree f).1 (2 * k - 2)).get x) path) := by
  obtain ⟨-, n, h⟩ := buildTree_merging hk (by omega)
  generalize (buildTree f).1 = arena at h
  have hk256 : k ≤ 256 := h.leafCount ▸ leavesOf_length_le f
  have htotal : arena.length + 1 = 2 * k := h.total
  have hroot : arena[2 * k - 2]? = some n := h.entry _ List.mem_cons_self
  have hkind : n.kind = .internal := (h.kind_iff hroot).mpr (by omega)
  have hcodes : treeCodes arena (2 * k - 2) = codeTable (pathsFrom arena arena.length (2 * k - 2) 0 0) := by
    simp only [treeCodes, hroot, hkind]
  have hmem := fun e => mem_pathsFrom (e := e) h.descending (show 2 * k - 2 < arena.length by omega) []
  have hsym : ∀ {path : List Bool} {m : Node}, walkTree arena (2 * k - 2) path = some m → m.kind = .leaf →
      f.get m.sym ≠ 0#64 := by
    intro path m hm hleaf
    obtain ⟨j, hj⟩ := List.mem_iff_getElem?.mp (walkTree_mem hm)
    have hjk : j < k := Nat.not_le.mp fun hkj => by
      rw [(h.kind_iff hj).mpr hkj] at hleaf
      cases hleaf
    obtain ⟨_, hfreq, hne, _⟩ := h.leaf hj hjk
    exact hfreq ▸ hne
  rw [hcodes, get_codeTable]
  constructor
  · intro hx
    rw [List.lookup_eq_none_iff.mpr fun e he => bne_iff_ne.mpr ?_]
    · rfl
    · obtain ⟨path, m, hm, hleaf, rfl⟩ := (hmem e).mp he
      rintro rfl
      exact hsym hm hleaf hx
  · intro hx
    have hleaf : leafNode x (f.get x) ∈ arena := by
      refine h.leaves.subset ?_
      rw [leavesOf_eq]
      exact List.mem_map_of_mem (List.mem_filter.mpr ⟨mem_allSymbols x, bne_iff_ne.mpr hx⟩)
    obtain ⟨j, hj⟩ := List.mem_iff_getElem?.mp hleaf
    obtain ⟨path, hpath⟩ := h.exists_walk (List.getElem?_eq_some_iff.mp hj).1
    have hlisted := (hmem _).mpr ⟨path ++ [], _, (hpath []).trans hj, rfl, rfl⟩
    cases hlookup : (pathsFrom arena arena.length (2 * k - 2) 0 0).lookup x with
    | none => exact absurd rfl (bne_iff_ne.mp (List.lookup_eq_none_iff.mp hlookup _ hlisted))
    | some e =>
      obtain ⟨pre, post, hsplit, _⟩ := List.lookup_eq_some_iff.mp hlookup
      have he : (x, e) ∈ pathsFrom arena arena.length (2 * k - 2) 0 0 := by
        rw [hsplit]
        simp
      obtain ⟨path, m, hm, hkm, hentry⟩ := (hmem _).mp he
      obtain ⟨rfl, hcode⟩ := Prod.mk.inj hentry
      refine ⟨path, hcode, ?_, ?_, m, hm, hkm, rfl⟩
      · rintro rfl
        obtain rfl := Option.some.inj (hroot.symm.trans hm)
        rw [hkind] at hkm
        cases hkm
      · have := h.walk_length_le hm
        omega

/-! ### The commands -/

/-- The stored tree is read back (43_huffman.md R157). -/
theorem arenaOf_ofList {s : State} {arena : List Node} (hnode : s.node = Sparse.ofList arena)
    (hcnt : s.nodeCnt.toNat = arena.length) : arenaOf s = arena := by
  refine List.ext_getElem (by simp [arenaOf, hcnt]) fun j _ hj => ?_
  simp [arenaOf, nodeAt, hnode, hj]

/-- `HUF.CODES` with a tree (43_huffman.md R157). -/
theorem hufCodes_done {s : State} (hs : Ready s) (hroot : s.root ≠ 0x3FF#10) :
    exec .hufCodes s = .next { s with tcode := treeCodes (arenaOf s) s.root.toNat } := command_done hs (if_neg hroot)

/-- A root that is a leaf has the code "0" (43_huffman.md R156). -/
theorem get_treeCodes_leaf {arena : List Node} {r : Nat} {n : Node} (hn : arena[r]? = some n) (hk : n.kind = .leaf)
    (x : Byte) : (treeCodes arena r).get x = if x = n.sym then ⟨1#8, 0⟩ else ⟨0#8, 0⟩ := by
  simp only [treeCodes, hn, hk, get_codeTable, List.lookup]
  by_cases hx : x = n.sym
  · simp [hx]
  · simp [hx, beq_eq_false_iff_ne.mpr hx]

/-- `HUF.BUILD` on one symbol or more stores the tree and its root (43_huffman.md R155). -/
theorem hufBuild_tree {s : State} {k : Nat} (hs : Ready s) (htotal : freqTotal s.freq < 2 ^ 64)
    (hk : k = allSymbols.countP fun x => s.freq.get x != 0#64) (h1 : 1 ≤ k) :
    ∃ t : State, exec .hufBuild s = .next t ∧ Ready t ∧ arenaOf t = (buildTree s.freq).1 ∧
      t.root.toNat = 2 * k - 2 := by
  obtain ⟨hroot, _, h⟩ := buildTree_merging hk h1
  have hk256 : k ≤ 256 := h.leafCount ▸ leavesOf_length_le s.freq
  have hlen : (buildTree s.freq).1.length + 1 = 2 * k := h.total
  refine ⟨_, hufBuild_done hs htotal, hs, arenaOf_ofList rfl (toNat_ofNat_of_lt (by omega)), ?_⟩
  rw [hroot]
  exact toNat_ofNat_of_lt (by omega)

/-- `HUF.BUILD` and `HUF.CODES` write the tree-order codes of the tree built (43_huffman.md R155, R157). -/
theorem execList_build_codes {s : State} {k : Nat} (hs : Ready s) (htotal : freqTotal s.freq < 2 ^ 64)
    (hk : k = allSymbols.countP fun x => s.freq.get x != 0#64) (h1 : 1 ≤ k) :
    ∃ t : State, execList [.hufBuild, .hufCodes] s = .next t ∧ Ready t ∧ arenaOf t = (buildTree s.freq).1 ∧
      t.root.toNat = 2 * k - 2 ∧ t.tcode = treeCodes (buildTree s.freq).1 (2 * k - 2) := by
  obtain ⟨u, hu, hready, harena, hroot⟩ := hufBuild_tree hs htotal hk h1
  have hpresent : u.root ≠ 0x3FF#10 := fun e => by
    have hk256 : k ≤ 256 := hk ▸ leavesOf_length s.freq ▸ leavesOf_length_le s.freq
    rw [e] at hroot
    simp at hroot
    omega
  refine ⟨{ u with tcode := treeCodes (arenaOf u) u.root.toNat }, ?_, hready, harena, hroot, by rw [harena, hroot]⟩
  simp only [execList, hu, hufCodes_done hready hpresent]

/-- Settles O35: the commands write the codes of the tree that stands in the arena, which are the walks to its
leaves. -/
theorem hufCodesAndLens : Obligations.HufCodesAndLens := by
  refine ⟨fun s => hufCodes_done, fun s hs hroot => ?absent, fun s hs => ?lens,
    fun arena r n hn hk => get_treeCodes_leaf hn hk, fun s hs htotal h2 => ?tree⟩
  case absent => exact command_errored (k := .compressionFailed) hs (by decide) (if_pos hroot)
  case lens => exact ⟨_, command_done hs rfl, rfl, fun x => get_ofFn _ x⟩
  case tree =>
    obtain ⟨t, ht, hready, harena, hroot, hcodes⟩ := execList_build_codes hs htotal rfl (by omega)
    have hcode := treeCodes_buildTree (f := s.freq) rfl h2
    rw [← hcodes, ← harena, ← hroot] at hcode
    have hcoded : ∀ x : Byte, (t.tcode.get x).len ≠ 0#8 → s.freq.get x ≠ 0#64 := fun x hx h0 => by
      rw [(hcode x).1 h0] at hx
      exact hx rfl
    refine ⟨t, ht, hready, fun a => ?fit, fun a b hab ha hb hprefix => ?prefixFree,
      fun x => ⟨(hcode x).1, fun hx => ?path⟩⟩
    case fit =>
      by_cases h0 : s.freq.get a = 0#64
      · rw [(hcode a).1 h0]
        exact Nat.one_pos
      · obtain ⟨path, hpath⟩ := (hcode a).2 h0
        rw [hpath.len_toNat, hpath.entry]
        exact bitsValue_lt path
    case prefixFree =>
      obtain ⟨pa, hpa⟩ := (hcode a).2 (hcoded a ha)
      obtain ⟨pb, hpb⟩ := (hcode b).2 (hcoded b hb)
      rw [hpa.codeBits, hpb.codeBits] at hprefix
      obtain ⟨rest, rfl⟩ := hprefix
      obtain ⟨n, hn, hkn, rfl⟩ := hpa.leaf
      obtain ⟨m, hm, _, rfl⟩ := hpb.leaf
      exact hab (congrArg Node.sym (walkTree_append_leaf hn hkn hm).2)
    case path =>
      obtain ⟨path, hpath⟩ := (hcode x).2 hx
      rw [hpath.codeBits, len_ne_zero_iff, hpath.len_toNat]
      exact ⟨List.length_pos_of_ne_nil hpath.nonempty, hpath.leaf⟩

end Sys2Proof.Proofs
end

/-! ## The length table of a stream -/

section

namespace Sys2Proof.Proofs

open Sys2Proof.Machine Sys2Proof.Laws Sys2Proof.Claims

/-! ### The Kraft sum of a tree -/

/-- The pair (length, symbol) of a listed code, as in the canonical assignment (43_huffman.md R160). -/
def codePair (e : Byte × CodeEntry) : Nat × Byte := (e.2.len.toNat, e.1)

/-- The Kraft sum of a table is at most that of a list with the pairs of its symbols. -/
theorem kraftSum_le_weight {l : Table (BitVec 8)} {ps : List (Nat × Byte)}
    (h : ∀ x : Byte, Coded l x → lengthPair l x ∈ ps) : kraftSum l ≤ weight ps := by
  have hsub : sortedPairs l ⊆ ps := fun p hp => by
    obtain ⟨x, hx, rfl⟩ := mem_sortedPairs.mp hp
    exact h x hx
  obtain ⟨qs, hperm, hqs⟩ := (nodup_sortedPairs l).subperm hsub
  rw [kraftSum_eq, weight, ← (hperm.map _).sum_eq]
  exact (hqs.map _).sum_le_sum fun _ _ => Nat.zero_le _

section
variable {codes : List (Byte × CodeEntry)} {x : Byte}

/-- A symbol with a length in a table of listed codes has its pair in the list. -/
theorem lengthPair_codeTable_mem (hx : Coded (codeLengths (codeTable codes)) x) :
    lengthPair (codeLengths (codeTable codes)) x ∈ codes.map codePair := by
  have hget : (codeLengths (codeTable codes)).get x = ((codes.lookup x).getD ⟨0#8, 0⟩).len := by
    rw [codeLengths, get_ofFn, get_codeTable]
  rw [lengthPair, hget]
  rw [Coded, hget] at hx
  cases hlookup : codes.lookup x with
  | none => simp [hlookup] at hx
  | some e =>
    obtain ⟨pre, post, rfl, _⟩ := List.lookup_eq_some_iff.mp hlookup
    exact List.mem_map.mpr ⟨(x, e), by simp, rfl⟩

theorem kraftSum_codeTable_le : kraftSum (codeLengths (codeTable codes)) ≤ weight (codes.map codePair) :=
  kraftSum_le_weight fun _ => lengthPair_codeTable_mem

end

section
variable {f : Table (BitVec 64)} {k : Nat} {arena : List Node} {qs : List QueueEntry}

/-- The codes below a node share out the part of the whole that its own path takes up (43_huffman.md R161). -/
theorem Merging.weight_pathsFrom_le (h : Merging f k arena qs) {fuel i len bits : Nat}
    (hlen : len + (i + 1 - k) ≤ 255) :
    weight ((pathsFrom arena fuel i len bits).map codePair) ≤ 2 ^ (255 - len) := by
  induction fuel generalizing i len bits with
  | zero => exact Nat.zero_le _
  | succ fuel ih =>
    cases hi : arena[i]? with
    | none => simp [pathsFrom, hi, weight]
    | some n =>
      cases hk : n.kind with
      | leaf => simp [pathsFrom, hi, hk, weight, codePair, Nat.mod_eq_of_lt (show len < 256 by omega)]
      | internal =>
        have hki := (h.kind_iff hi).mp hk
        obtain ⟨hl, hr⟩ := h.descending i n hi hk
        have hleft := ih (i := n.left.toNat) (len := len + 1) (bits := 2 * bits) (by omega)
        have hright := ih (i := n.right.toNat) (len := len + 1) (bits := 2 * bits + 1) (by omega)
        have hhalf : 2 ^ (255 - len) = 2 ^ (255 - (len + 1)) + 2 ^ (255 - (len + 1)) := by
          rw [← Nat.two_mul, ← Nat.pow_succ']
          congr 1
          omega
        simp only [pathsFrom, hi, hk, List.map_append, weight_append]
        omega

end

/-! ### The lengths of a tree -/

section
variable {f : Table (BitVec 64)} {k : Nat} (hk : k = allSymbols.countP fun x => f.get x != 0#64)
include hk

/-- The tree of one symbol is its leaf (43_huffman.md R154). -/
theorem buildTree_one (h1 : k = 1) :
    ∃ x : Byte, (buildTree f).1[2 * k - 2]? = some (leafNode x (f.get x)) ∧
      ∀ y : Byte, f.get y ≠ 0#64 ↔ y = x := by
  obtain ⟨-, n, h⟩ := buildTree_merging hk h1.ge
  subst h1
  rw [← leavesOf_length] at hk
  obtain ⟨m, hm⟩ := List.length_eq_one_iff.mp hk.symm
  have hleaves := leavesOf_eq f
  rw [hm] at hleaves
  obtain ⟨x, hx, rfl⟩ := List.map_eq_singleton_iff.mp hleaves.symm
  refine ⟨x, ?_, fun y => ?_⟩
  · exact List.prefix_iff_getElem?.mp (hm ▸ h.leaves) 0 (by simp)
  · have := congrArg (y ∈ ·) hx
    simpa [mem_allSymbols] using this

/-- The symbols that occur are those with a length (43_huffman.md R156). -/
theorem len_treeCodes_ne_zero_iff (h1 : 1 ≤ k) (x : Byte) :
    ((treeCodes (buildTree f).1 (2 * k - 2)).get x).len ≠ 0#8 ↔ f.get x ≠ 0#64 := by
  rcases h1.eq_or_lt with h1 | h2
  · obtain ⟨y, hroot, hocc⟩ := buildTree_one hk h1.symm
    rw [get_treeCodes_leaf hroot rfl, hocc]
    by_cases hx : x = y <;> simp [leafNode, hx]
  · obtain ⟨habsent, hpath⟩ := treeCodes_buildTree hk h2 x
    by_cases hx : f.get x = 0#64
    · simp [habsent hx, hx]
    · obtain ⟨path, hpath⟩ := hpath hx
      rw [len_ne_zero_iff, hpath.len_toNat]
      exact iff_of_true (List.length_pos_of_ne_nil hpath.nonempty) hx

/-- The lengths of a tree are not over-subscribed (43_huffman.md R161). -/
theorem kraftSum_treeCodes_le (h1 : 1 ≤ k) :
    kraftSum (codeLengths (treeCodes (buildTree f).1 (2 * k - 2))) ≤ 2 ^ 255 := by
  rcases h1.eq_or_lt with h1 | h2
  · obtain ⟨x, hroot, -⟩ := buildTree_one hk h1.symm
    have hcodes : treeCodes (buildTree f).1 (2 * k - 2) = codeTable [(x, ⟨1#8, 0⟩)] := by
      simp only [treeCodes, hroot, leafNode]
    rw [hcodes]
    refine kraftSum_codeTable_le.trans ?_
    simp [weight, codePair]
  · obtain ⟨-, n, h⟩ := buildTree_merging hk (by omega)
    have hk256 : k ≤ 256 := h.leafCount ▸ leavesOf_length_le f
    have hroot : (buildTree f).1[2 * k - 2]? = some n := h.entry _ List.mem_cons_self
    have hkind : n.kind = .internal := (h.kind_iff hroot).mpr (by omega)
    simp only [treeCodes, hroot, hkind]
    exact kraftSum_codeTable_le.trans (h.weight_pathsFrom_le (by omega))

end

/-! ### The lengths of a stream -/

section
variable {stream : List Byte}

/-- A symbol has a frequency exactly when it occurs (43_huffman.md R150). -/
theorem countFreq_ne_zero_iff (hlen : stream.length < 2 ^ 64) (x : Byte) :
    (countFreq stream).get x ≠ 0#64 ↔ x ∈ stream := by
  have hcount : stream.count x < 2 ^ 64 := List.count_le_length.trans_lt hlen
  rw [countFreq, get_ofFn, ne_eq, ← BitVec.toNat_inj, toNat_ofNat_of_lt hcount, ← List.count_pos_iff]
  exact Nat.pos_iff_ne_zero.symm

/-- The lengths of a non-empty stream are those of the tree of its frequencies (44_frame.md R181). -/
theorem streamLengths_eq (hne : stream ≠ []) (hlen : stream.length < 2 ^ 64) :
    ∃ k : Nat, k = allSymbols.countP (fun x => (countFreq stream).get x != 0#64) ∧ 1 ≤ k ∧
      streamLengths stream = codeLengths (treeCodes (buildTree (countFreq stream)).1 (2 * k - 2)) := by
  obtain ⟨x, hx⟩ := List.exists_mem_of_ne_nil stream hne
  have h1 : 1 ≤ allSymbols.countP fun x => (countFreq stream).get x != 0#64 :=
    List.countP_pos_iff.mpr ⟨x, mem_allSymbols x, bne_iff_ne.mpr ((countFreq_ne_zero_iff hlen x).mpr hx)⟩
  refine ⟨_, rfl, h1, ?_⟩
  obtain ⟨hroot, _, h⟩ := buildTree_merging rfl h1
  have hk := leavesOf_length_le (countFreq stream)
  rw [h.leafCount] at hk
  simp only [streamLengths, hroot, rootIndex]
  rw [toNat_ofNat_of_lt (by omega)]

end

/-- Settles O42: the lengths are those of the paths of a tree, which share out the whole, so the canonical codes
fit. -/
theorem encoderLengthTableCoversTheStream : Obligations.EncoderLengthTableCoversTheStream := by
  intro stream hne hlen
  obtain ⟨k, hk, h1, hlengths⟩ := streamLengths_eq hne hlen
  rw [hlengths]
  constructor
  · intro x
    rw [codeLengths, get_ofFn, len_treeCodes_ne_zero_iff hk h1, countFreq_ne_zero_iff hlen]
  · cases hc : canonical (codeLengths (treeCodes (buildTree (countFreq stream)).1 (2 * k - 2))) with
    | ok c => exact ⟨c, rfl⟩
    | error e => exact absurd (lt_kraftSum_of_canonical_error hc) (Nat.not_lt.mpr (kraftSum_treeCodes_le hk h1))

end Sys2Proof.Proofs
end

/-! ## The empty-file frame -/

section

namespace Sys2Proof.Proofs

open Sys2Proof.Machine Sys2Proof.Laws Sys2Proof.Claims

section
variable {s : State}

theorem sourceBytes_eq_nil (h0 : s.srcLen = 0#64) : bufferBytes s .src = [] :=
  List.eq_nil_of_length_eq_zero (by rw [sourceBytes_length, h0]; rfl)

/-- Empty input gives the empty-file frame, when it fits, whatever the variant (44_frame.md R182). -/
theorem frameEncode_empty (enc : List Byte → Except CmdError Encoded) (h0 : s.srcLen = 0#64)
    (hcap : 12 ≤ s.cap.bufCap) : frameEncode s enc = .done (encodedState emptyFrame 0 s.crcr s) := by
  have hsrc : sourceBytes s = .ok [] := by rw [sourceBytes_ok (by rw [h0]; exact Nat.zero_le _), sourceBytes_eq_nil h0]
  simp only [frameEncode, hsrc, if_true, checkBytes_fitting (xs := emptyFrame) hcap]
  rfl

theorem frameCommand_empty {i : Instr} {enc : State → List Byte → Except CmdError Encoded}
    (hexec : exec i s = command (encode i) s fun s => frameEncode s (enc s)) (hs : Ready s) (h0 : s.srcLen = 0#64)
    (hcap : 12 ≤ s.cap.bufCap) : exec i s = .next { produced emptyFrame s with symCnt := 0#64, origLen := 0#64 } := by
  rw [hexec, command_done hs (frameEncode_empty _ h0 hcap), encodedState, h0]
  rfl

end

/-- Settles O45. -/
theorem emptyInputGivesEmptyFileFrame : Obligations.EmptyInputGivesEmptyFileFrame := by
  intro s hs h0 hcap
  simp only [List.mem_cons, List.not_mem_nil, or_false, forall_eq_or_imp, forall_eq]
  exact ⟨frameCommand_empty (exec_frmEncPlain s) hs h0 hcap, frameCommand_empty (exec_frmEncHyb s) hs h0 hcap,
    frameCommand_empty (exec_frmEncPar s) hs h0 hcap, frameCommand_empty (exec_frmEncStor s) hs h0 hcap⟩

end Sys2Proof.Proofs
end

/-! ## The frame decoders -/

section

namespace Sys2Proof.Proofs

open Sys2Proof.Machine Sys2Proof.Laws Sys2Proof.Claims

/-! ### Running `FRM.DEC` -/

section
variable {s : State} {v : Variant} {crc : BitVec 32} {out : List Byte} (hs : Ready s)
  (hlen : s.srcLen.toNat ≤ s.cap.bufCap) (hv : classify (bufferBytes s .src) = v)
include hs hlen hv

/-- A decoding that fits is stored (44_frame.md R189). -/
theorem frmDec_returned (hd : decodeFrame s v (bufferBytes s .src) = ⟨crc, .ok out⟩)
    (hout : out.length ≤ s.cap.bufCap) :
    exec .frmDec s = .next { produced out s with res := variantCode v, crcr := crc } :=
  command_done hs (by simp only [sourceBytes_ok hlen, hv, hd, checkBytes_fitting hout]; rfl)

/-- The size of the whole output is checked at the end (log entry 13). -/
theorem frmDec_full (hd : decodeFrame s v (bufferBytes s .src) = ⟨crc, .ok out⟩) (hout : s.cap.bufCap < out.length)
    (hinfo : out.length < 2 ^ 64) : exec .frmDec s = .next (errored 9#8 (BitVec.ofNat 64 out.length) 0x51000000#32
      { emptied s with res := variantCode v, crcr := crc }) :=
  command_errored (k := .memoryError) hs hinfo
    (by simp only [sourceBytes_ok hlen, hv, hd, checkBytes_full hout]; rfl)

/-- An error of the decoder empties `DST`; `RES` and `CRCR` stand (60_exceptions.md R234). -/
theorem frmDec_errored {k : ErrorKind} {info : Nat}
    (hd : decodeFrame s v (bufferBytes s .src) = ⟨crc, .error ⟨k, info⟩⟩) (hinfo : info < 2 ^ 64) :
    exec .frmDec s = .next (errored (errorCode k) (BitVec.ofNat 64 info) 0x51000000#32
      { emptied s with res := variantCode v, crcr := crc }) :=
  command_errored hs hinfo (by simp only [sourceBytes_ok hlen, hv, hd]; rfl)

end

theorem bounded_iff {s : State} : bounded s = true ↔ s.ctl = 1#1 := beq_iff_eq

/-! ### Numbers in a header -/

theorem toLe_succ (n v : Nat) : toLe (n + 1) v = BitVec.ofNat 8 v :: toLe n (v / 256) := by
  rw [toLe, List.range_succ_eq_map, List.map_cons, List.map_map, Nat.mul_zero, Nat.pow_zero, Nat.div_one]
  congr 1
  refine List.map_congr_left fun i _ => ?_
  rw [Function.comp_apply, Nat.mul_succ, Nat.pow_add, Nat.mul_comm, ← Nat.div_div_eq_div_mul]

/-- A number that fits is read back from its bytes (00_scope.md section 6). -/
theorem fromLe_toLe {n v : Nat} (h : v < 256 ^ n) : fromLe (toLe n v) = v := by
  induction n generalizing v with
  | zero => exact (Nat.lt_one_iff.mp h).symm
  | succ n ih =>
    rw [Nat.pow_succ] at h
    rw [toLe_succ, fromLe, ih (by omega), BitVec.toNat_ofNat]
    exact Nat.mod_add_div v 256

theorem fromLe_lt (xs : List Byte) : fromLe xs < 256 ^ xs.length := by
  induction xs with
  | nil => exact Nat.one_pos
  | cons x xs ih =>
    have hx := x.isLt
    rw [fromLe, List.length_cons, Nat.pow_succ]
    omega

/-- A number of at most 8 bytes fits `ERRINFO`. -/
theorem fromLe_take_lt (xs : List Byte) : fromLe (xs.take 8) < 2 ^ 64 :=
  (fromLe_lt _).trans_le (Nat.pow_le_pow_right (by decide : 0 < 256) (List.length_take_le 8 xs))

/-! ### A coded body (44_frame.md R191, R192) -/

section
variable {bufCap count : Nat} {bound : Bool} {crc : BitVec 32} {body : List Byte}

theorem decodeSingle_noTable (h : body.length < 256) :
    decodeSingle bufCap bound count crc body = ⟨crc, .error ⟨.corruptHeader, body.length⟩⟩ := if_pos h

/-- A table of zeros is empty output, whatever follows (90_conflicts.md C6). -/
theorem decodeSingle_zeroTable (h : 256 ≤ body.length) (hzero : ∀ x ∈ body.take 256, x = 0#8) :
    decodeSingle bufCap bound count crc body = ⟨crc, .ok []⟩ := by
  rw [decodeSingle, if_neg (Nat.not_lt.mpr h), if_pos]
  simpa only [List.all_eq_true, beq_iff_eq] using hzero

section
variable (hcoded : ∃ x ∈ body.take 256, x ≠ 0#8)
include hcoded

theorem decodeSingle_noChecksum (h : 256 ≤ body.length) (h' : body.length < 260) :
    decodeSingle bufCap bound count crc body = ⟨crc, .error ⟨.corruptHeader, body.length⟩⟩ := by
  rw [decodeSingle, if_neg (Nat.not_lt.mpr h), if_neg (by simpa using hcoded), if_pos h']

/-- The checksum is verified before the table is looked at (44_frame.md R191). -/
theorem decodeSingle_mismatch (h : 260 ≤ body.length)
    (hcrc : (crc32 (body.drop 260)).toNat ≠ fromLe ((body.drop 256).take 4)) :
    decodeSingle bufCap bound count crc body =
      ⟨crc32 (body.drop 260), .error ⟨.checksumMismatch, fromLe ((body.drop 256).take 4)⟩⟩ := by
  rw [decodeSingle, if_neg (by omega), if_neg (by simpa using hcoded), if_neg (by omega)]
  exact if_pos hcrc

section
variable (h : 260 ≤ body.length) (hcrc : (crc32 (body.drop 260)).toNat = fromLe ((body.drop 256).take 4))
include h hcrc

theorem decodeSingle_badTable {e : CmdError} (hcanon : canonical (lengthTable body) = .error e) :
    decodeSingle bufCap bound count crc body = ⟨crc32 (body.drop 260), .error e⟩ := by
  rw [decodeSingle, if_neg (by omega), if_neg (by simpa using hcoded), if_neg (by omega)]
  simp only [hcrc, ne_eq, not_true, if_false, hcanon]

/-- A verified payload is decoded under the canonical codes of the table (44_frame.md R191). -/
theorem decodeSingle_decoded {c : Table CodeEntry} {d : Decoded} (hcanon : canonical (lengthTable body) = .ok c)
    (hd : huffDecode c bound (bitsOf (body.drop 260)) count bufCap 0 0 = d) :
    decodeSingle bufCap bound count crc body = ⟨crc32 (body.drop 260), decodedResult bufCap (d.used / 8) d⟩ := by
  rw [decodeSingle, if_neg (by omega), if_neg (by simpa using hcoded), if_neg (by omega)]
  simp only [hcrc, ne_eq, not_true, if_false, hcanon, hd]

end

end

/-- A table whose canonical codes do not exist has a length that is not zero. -/
theorem exists_ne_zero_of_canonical_error {e : CmdError} (h : canonical (lengthTable body) = .error e) :
    ∃ x ∈ body.take 256, x ≠ 0#8 := by
  obtain ⟨_, x, _, hx, _⟩ := canonical_error h
  rw [Coded, lengthTable, get_ofFn, List.getD_eq_getElem?_getD] at hx
  cases hget : body[x.toNat]? with
  | none => simp [hget] at hx
  | some y =>
    rw [hget] at hx
    refine ⟨y, List.mem_of_getElem? (i := x.toNat) ?_, hx⟩
    rw [List.getElem?_take_of_lt x.isLt, hget]

end

/-! ### Single frames (44_frame.md R189, R193) -/

section
variable {cap : Config} {symcnt origlen : Nat} {bound : Bool} {crc crc' : BitVec 32} {body : List Byte}

theorem decodeHybrid_error {e : CmdError} (h : decodeSingle cap.bufCap bound symcnt crc body = ⟨crc', .error e⟩) :
    decodeHybrid cap bound symcnt origlen crc body = ⟨crc', .error e⟩ := by
  simp only [decodeHybrid, h]

/-- Decoded bytes that are records of tokens are replayed (44_frame.md R193). -/
theorem decodeHybrid_tokens {toks : List Token}
    (h : decodeSingle cap.bufCap bound symcnt crc body = ⟨crc', .ok (tokensToBytes toks)⟩)
    (htok : toks.length ≤ cap.tokCap) : decodeHybrid cap bound symcnt origlen crc body =
      ⟨crc', lzDecompress cap.bufCap bound origlen toks⟩ := by
  simp only [decodeHybrid, h, (tokenBytesRoundTrip toks).2, checkTokens_fitting htok]

end

/-- The magics of the frames of one coded stream, and their variants (30_encoding.md R77). -/
def singleMagics : List (List Byte × Variant) := [(magicHuf2, .huf2), (magicHybrid, .hybrid)]

section
variable {s : State} {frame body : List Byte}

theorem decodeFrame_huf2 (h : frame = magicHuf2 ++ body) : decodeFrame s .huf2 frame =
    decodeSingle s.cap.bufCap (bounded s) s.symCnt.toNat s.crcr body := by
  rw [h]
  rfl

theorem decodeFrame_hybrid (h : frame = magicHybrid ++ body) : decodeFrame s .hybrid frame =
    decodeHybrid s.cap (bounded s) s.symCnt.toNat s.origLen.toNat s.crcr body := by
  rw [h]
  rfl

theorem decodeFrame_par (frame : List Byte) : decodeFrame s .par frame =
    decodePar s.cap.bufCap (bounded s) s.origLen.toNat s.chunkSz.toNat s.crcr frame := rfl

end

section
variable {s : State} {magic body : List Byte} {v : Variant} (hm : (magic, v) ∈ singleMagics)
include hm

theorem classify_single (body : List Byte) : classify (magic ++ body) = v := by
  refine classify_of_prefix ?_ (List.prefix_append magic body)
  revert hm
  simp only [singleMagics, magicTable, List.mem_cons]
  tauto

/-- An error of the body is that of the frame (44_frame.md R189, R193). -/
theorem decodeFrame_single_error {crc : BitVec 32} {e : CmdError}
    (h : decodeSingle s.cap.bufCap (bounded s) s.symCnt.toNat s.crcr body = ⟨crc, .error e⟩) :
    decodeFrame s v (magic ++ body) = ⟨crc, .error e⟩ := by
  simp only [singleMagics, List.mem_cons, Prod.mk.injEq, List.not_mem_nil, or_false] at hm
  rcases hm with ⟨rfl, rfl⟩ | ⟨rfl, rfl⟩
  · exact (decodeFrame_huf2 rfl).trans h
  · exact (decodeFrame_hybrid rfl).trans (decodeHybrid_error h)

theorem frmDec_single_errored (hs : Ready s) (hlen : s.srcLen.toNat ≤ s.cap.bufCap)
    (hframe : bufferBytes s .src = magic ++ body) {crc : BitVec 32} {k : ErrorKind} {info : Nat} (hinfo : info < 2 ^ 64)
    (h : decodeSingle s.cap.bufCap (bounded s) s.symCnt.toNat s.crcr body = ⟨crc, .error ⟨k, info⟩⟩) :
    exec .frmDec s = .next (errored (errorCode k) (BitVec.ofNat 64 info) 0x51000000#32
      { emptied s with res := variantCode v, crcr := crc }) :=
  frmDec_errored hs hlen (hframe ▸ classify_single hm body) (hframe ▸ decodeFrame_single_error hm h) hinfo

end

/-! ### Containers (44_frame.md R195) -/

section
variable {bufCap origlen size : Nat} {bound : Bool} {crc : BitVec 32} {frame : List Byte}

theorem decodePar_noChunkSize (h : bound = true ∧ size = 0) :
    decodePar bufCap bound origlen size crc frame = ⟨crc, .error ⟨.invalidInput, 0⟩⟩ := if_pos h

section
variable (hsize : ¬ (bound = true ∧ size = 0))
include hsize

theorem decodePar_short (h : frame.length < 15) :
    decodePar bufCap bound origlen size crc frame = ⟨crc, .error ⟨.corruptHeader, frame.length⟩⟩ := by
  rw [decodePar, if_neg hsize, if_pos h]

section
variable {k : Nat} (hk : fromLe ((frame.drop 7).take 8) = k) (h : 15 ≤ frame.length)
include hk h

/-- The checks of the number of chunks and their sizes, in the order of the decoder. -/
theorem decodePar_whole : decodePar bufCap bound origlen size crc frame =
    if (frame.length - 15) / 8 < k then ⟨crc, .error ⟨.corruptHeader, k⟩⟩
    else if (chunkSizes k frame).sum ≠ frame.length - 15 - 8 * k then ⟨crc, .error ⟨.corruptHeader, k⟩⟩
    else if bound = true ∧ k ≠ ceilDiv origlen size then ⟨crc, .error ⟨.corruptHeader, k⟩⟩
    else decodeChunks bufCap bound origlen size 0 (chunkSizes k frame) crc (frame.drop (15 + 8 * k)) := by
  rw [decodePar, if_neg hsize, if_neg (Nat.not_lt.mpr h), hk]

theorem decodePar_countBeyond (hcount : (frame.length - 15) / 8 < k) :
    decodePar bufCap bound origlen size crc frame = ⟨crc, .error ⟨.corruptHeader, k⟩⟩ := by
  rw [decodePar_whole hsize hk h, if_pos hcount]

theorem decodePar_wrongSizes (hcount : k ≤ (frame.length - 15) / 8)
    (hsum : 15 + 8 * k + (chunkSizes k frame).sum ≠ frame.length) :
    decodePar bufCap bound origlen size crc frame = ⟨crc, .error ⟨.corruptHeader, k⟩⟩ := by
  rw [decodePar_whole hsize hk h, if_neg (Nat.not_lt.mpr hcount), if_pos (by omega)]

theorem decodePar_wrongCount (hcount : k ≤ (frame.length - 15) / 8)
    (hsum : 15 + 8 * k + (chunkSizes k frame).sum = frame.length) (hwrong : bound = true ∧ k ≠ ceilDiv origlen size) :
    decodePar bufCap bound origlen size crc frame = ⟨crc, .error ⟨.corruptHeader, k⟩⟩ := by
  rw [decodePar_whole hsize hk h, if_neg (Nat.not_lt.mpr hcount), if_neg (by omega), if_pos hwrong]

/-- A container with a sound header is decoded chunk by chunk. -/
theorem decodePar_chunks (hcount : k ≤ (frame.length - 15) / 8)
    (hsum : 15 + 8 * k + (chunkSizes k frame).sum = frame.length) (hright : bound = true → k = ceilDiv origlen size) :
    decodePar bufCap bound origlen size crc frame =
      decodeChunks bufCap bound origlen size 0 (chunkSizes k frame) crc (frame.drop (15 + 8 * k)) := by
  rw [decodePar_whole hsize hk h, if_neg (Nat.not_lt.mpr hcount), if_neg (by omega),
    if_neg fun hw => hw.2 (hright hw.1)]

end

end

end

/-- A decoding that goes on as `r` after the output `out`. -/
def decodingAfter (out : List Byte) (r : Decoding) : Decoding := ⟨r.crc, r.result.map (out ++ ·)⟩

@[simp] theorem decodingAfter_nil (r : Decoding) : decodingAfter [] r = r := by
  obtain ⟨crc, result⟩ := r
  cases result <;> rfl

theorem decodingAfter_after (out out' : List Byte) (r : Decoding) :
    decodingAfter out (decodingAfter out' r) = decodingAfter (out ++ out') r := by
  obtain ⟨crc, result⟩ := r
  cases result <;> simp [decodingAfter, Except.map]

section
variable {bufCap origlen size i n : Nat} {ns : List Nat} {bound : Bool} {crc crc' : BitVec 32}
  {rest out outs : List Byte}

/-- A blob that is no `HUF2` frame ends the decoding (44_frame.md R195). -/
theorem decodeChunks_badMagic (h : classify (rest.take n) ≠ .huf2) :
    decodeChunks bufCap bound origlen size i (n :: ns) crc rest = ⟨crc, .error ⟨.invalidMagic, i⟩⟩ := if_pos h

section
variable (h : classify (rest.take n) = .huf2)
include h

theorem decodeChunks_error {e : CmdError}
    (hd : decodeSingle bufCap bound (chunkCount origlen size i) crc ((rest.take n).drop 4) = ⟨crc', .error e⟩) :
    decodeChunks bufCap bound origlen size i (n :: ns) crc rest = ⟨crc', .error e⟩ := by
  rw [decodeChunks, if_neg (not_not.mpr h)]
  simp only [hd]

theorem decodeChunks_ok
    (hd : decodeSingle bufCap bound (chunkCount origlen size i) crc ((rest.take n).drop 4) = ⟨crc', .ok out⟩) :
    decodeChunks bufCap bound origlen size i (n :: ns) crc rest =
      decodingAfter out (decodeChunks bufCap bound origlen size (i + 1) ns crc' (rest.drop n)) := by
  rw [decodeChunks, if_neg (not_not.mpr h)]
  simp only [hd, decodingAfter]
  cases (decodeChunks bufCap bound origlen size (i + 1) ns crc' (rest.drop n)).result <;> rfl

end

/-- Chunks that are all decoded are decoded one by one. -/
theorem decodeChunks_cons_ok (h : (decodeChunks bufCap bound origlen size i (n :: ns) crc rest).result = .ok outs) :
    ∃ (crc' : BitVec 32) (out outs' : List Byte), outs = out ++ outs' ∧ classify (rest.take n) = .huf2 ∧
      decodeSingle bufCap bound (chunkCount origlen size i) crc ((rest.take n).drop 4) = ⟨crc', .ok out⟩ ∧
      (decodeChunks bufCap bound origlen size (i + 1) ns crc' (rest.drop n)).result = .ok outs' := by
  by_cases hmagic : classify (rest.take n) = .huf2
  · cases hd : decodeSingle bufCap bound (chunkCount origlen size i) crc ((rest.take n).drop 4) with
    | mk crc' result =>
      cases result with
      | error e =>
        rw [decodeChunks_error hmagic hd] at h
        cases h
      | ok out =>
        rw [decodeChunks_ok hmagic hd, decodingAfter] at h
        cases hr : (decodeChunks bufCap bound origlen size (i + 1) ns crc' (rest.drop n)).result with
        | error e => simp [hr, Except.map] at h
        | ok outs' =>
          rw [hr] at h
          cases h
          exact ⟨crc', out, outs', rfl, hmagic, rfl, hr⟩
  · rw [decodeChunks_badMagic hmagic] at h
    cases h

/-- Chunks after chunks that are decoded. -/
theorem decodeChunks_append (ms : List Nat)
    (h : (decodeChunks bufCap bound origlen size i ns crc rest).result = .ok outs) :
    decodeChunks bufCap bound origlen size i (ns ++ ms) crc rest =
      decodingAfter outs (decodeChunks bufCap bound origlen size (i + ns.length) ms
        (decodeChunks bufCap bound origlen size i ns crc rest).crc (rest.drop ns.sum)) := by
  induction ns generalizing i crc rest outs with
  | nil =>
    cases h
    exact (decodingAfter_nil _).symm
  | cons n ns ih =>
    obtain ⟨crc', out, outs', rfl, hmagic, hd, htail⟩ := decodeChunks_cons_ok h
    rw [List.cons_append, decodeChunks_ok hmagic hd, ih htail, decodingAfter_after, decodeChunks_ok hmagic hd,
      List.drop_drop, List.length_cons, List.sum_cons, Nat.add_right_comm, ← Nat.add_assoc]
    rfl

/-- Bytes beyond the sizes are not read. -/
theorem decodeChunks_rest_append (more : List Byte) (h : ns.sum ≤ rest.length) :
    decodeChunks bufCap bound origlen size i ns crc (rest ++ more) =
      decodeChunks bufCap bound origlen size i ns crc rest := by
  induction ns generalizing i crc rest with
  | nil => rfl
  | cons n ns ih =>
    rw [List.sum_cons] at h
    have htail := fun (i : Nat) (crc : BitVec 32) => ih (i := i) (crc := crc) (rest := rest.drop n)
      (by rw [List.length_drop]; omega)
    simp only [decodeChunks, List.take_append_of_le_length (show n ≤ rest.length by omega),
      List.drop_append_of_le_length (show n ≤ rest.length by omega), htail]

end

end Sys2Proof.Proofs
end

/-! ## The result of `FRM.DEC` -/

section

namespace Sys2Proof.Proofs

open Sys2Proof.Machine Sys2Proof.Laws Sys2Proof.Claims

/-! ### Headers -/

section
variable {frame : List Byte}

theorem decodeHuf1_short (h : frame.length < 12) : decodeHuf1 frame = .error ⟨.corruptHeader, frame.length⟩ :=
  if_pos h

theorem decodeHuf1_whole (h : 12 ≤ frame.length) : decodeHuf1 frame =
    if fromLe ((frame.drop 4).take 8) = 0 then .ok []
    else .error ⟨.decompressionFailed, fromLe ((frame.drop 4).take 8)⟩ := if_neg (Nat.not_lt.mpr h)

theorem decodeStor_short (h : frame.length < 12) : decodeStor frame = .error ⟨.corruptHeader, frame.length⟩ :=
  if_pos h

theorem decodeStor_wrongSize (h : 12 ≤ frame.length) (hsize : frame.length ≠ 12 + fromLe ((frame.drop 4).take 8)) :
    decodeStor frame = .error ⟨.corruptHeader, fromLe ((frame.drop 4).take 8)⟩ := by
  rw [decodeStor, if_neg (Nat.not_lt.mpr h)]
  exact if_pos (by omega)

theorem decodeStor_ok (hsize : frame.length = 12 + fromLe ((frame.drop 4).take 8)) :
    decodeStor frame = .ok (frame.drop 12) := by
  rw [decodeStor, if_neg (by omega)]
  exact if_neg (by omega)

end

/-! ### Single frames -/

/-- The code that `FRM.DEC` puts in `RES` for a frame of one coded stream is that of its variant. -/
theorem exists_variant_of_singleMagic {magic : List Byte} {res : BitVec 64}
    (h : (magic, res) ∈ [(magicHuf2, 2#64), (magicHybrid, 3#64)]) :
    ∃ v : Variant, (magic, v) ∈ singleMagics ∧ variantCode v = res := by
  simp only [List.mem_cons, Prod.mk.injEq, List.not_mem_nil, or_false] at h
  rcases h with ⟨rfl, rfl⟩ | ⟨rfl, rfl⟩
  · exact ⟨.huf2, List.mem_cons_self, rfl⟩
  · exact ⟨.hybrid, List.mem_cons_of_mem _ List.mem_cons_self, rfl⟩

/-! The replay of no tokens gives no bytes, which bounded mode may find too few (42_lz77.md R135). -/

theorem lzDecompress_nil_ok {bufCap origlen : Nat} {bound : Bool} (h : bound = true → origlen = 0) :
    lzDecompress bufCap bound origlen [] = .ok [] := if_neg fun hne => hne.2 (h hne.1).symm

theorem lzDecompress_nil_error {bufCap origlen : Nat} {bound : Bool} (hb : bound = true) (h : origlen ≠ 0) :
    lzDecompress bufCap bound origlen [] = .error ⟨.decompressionFailed, 0⟩ := if_pos ⟨hb, h.symm⟩

/-- An all-zero table in a `HUF_LZ77` frame is the replay of no tokens (90_conflicts.md C6). -/
theorem decodeFrame_hybrid_zeroTable {s : State} {frame body : List Byte} (h : 256 ≤ body.length)
    (hzero : ∀ x ∈ body.take 256, x = 0#8) (hframe : frame = magicHybrid ++ body) : classify frame = .hybrid ∧
      decodeFrame s .hybrid frame = ⟨s.crcr, lzDecompress s.cap.bufCap (bounded s) s.origLen.toNat []⟩ := by
  have hd := decodeHybrid_tokens (cap := s.cap) (symcnt := s.symCnt.toNat) (origlen := s.origLen.toNat)
    (bound := bounded s) (crc := s.crcr) (toks := []) (decodeSingle_zeroTable h hzero) (Nat.zero_le _)
  exact ⟨by rw [hframe, classify_single (List.mem_cons_of_mem _ List.mem_cons_self)],
    (decodeFrame_hybrid hframe).trans hd⟩

section
variable {s : State} {body : List Byte} (hs : Ready s) (hlen : s.srcLen.toNat ≤ s.cap.bufCap)
  (h : 256 ≤ body.length) (hzero : ∀ x ∈ body.take 256, x = 0#8)
include hs hlen h hzero

/-- An all-zero table in a `HUF2` frame is empty output (90_conflicts.md C6). -/
theorem frmDec_huf2_zeroTable (hframe : bufferBytes s .src = magicHuf2 ++ body) :
    exec .frmDec s = .next { produced [] s with res := 2#64, crcr := s.crcr } :=
  frmDec_returned hs hlen (v := .huf2) (by rw [hframe, classify_single List.mem_cons_self])
    ((decodeFrame_huf2 hframe).trans (decodeSingle_zeroTable h hzero)) (Nat.zero_le _)

section
variable (hframe : bufferBytes s .src = magicHybrid ++ body)
include hframe

theorem frmDec_hybrid_zeroTable (horig : s.ctl = 1#1 → s.origLen = 0#64) :
    exec .frmDec s = .next { produced [] s with res := 3#64, crcr := s.crcr } := by
  obtain ⟨hv, hd⟩ := decodeFrame_hybrid_zeroTable (s := s) h hzero hframe
  rw [lzDecompress_nil_ok fun hb => by rw [horig (bounded_iff.mp hb)]; rfl] at hd
  exact frmDec_returned hs hlen hv hd (Nat.zero_le _)

/-- Bounded mode that asks for bytes does not get them from an all-zero table (42_lz77.md R135). -/
theorem frmDec_hybrid_zeroTable_errored (hctl : s.ctl = 1#1) (horig : s.origLen ≠ 0#64) :
    exec .frmDec s = .next (errored 6#8 0#64 0x51000000#32 { emptied s with res := 3#64, crcr := s.crcr }) := by
  obtain ⟨hv, hd⟩ := decodeFrame_hybrid_zeroTable (s := s) h hzero hframe
  rw [lzDecompress_nil_error (bounded_iff.mpr hctl) (BitVec.toNat_ne.mp horig)] at hd
  exact frmDec_errored hs hlen hv hd (by decide)

end

end

/-! ### Containers -/

theorem bounded_and_chunkSize_zero_iff {s : State} :
    (bounded s = true ∧ s.chunkSz.toNat = 0) ↔ (s.ctl = 1#1 ∧ s.chunkSz = 0#64) := by
  rw [bounded_iff, ← BitVec.toNat_inj (y := 0#64)]
  rfl

/-- Only bytes with the magic of `HUF2` are a `HUF2` frame (44_frame.md R187). -/
theorem magicHuf2_prefix_of_classify {bytes : List Byte} (h : classify bytes = .huf2) : magicHuf2 <+: bytes := by
  by_contra hno
  have hnone : ∀ m ∈ magicTable, ¬ m.1 <+: bytes := fun m hm hp => by
    have hmagic : ∀ m ∈ magicTable, m.2 = .huf2 → m.1 = magicHuf2 := by decide
    exact hno (hmagic m hm ((classify_of_prefix hm hp).symm.trans h) ▸ hp)
  rw [classify_of_no_prefix hnone] at h
  cases h

/-- A blob without the magic of `HUF2` after blobs that are decoded (44_frame.md R195). -/
theorem decodeChunks_badMagic_after {bufCap origlen size i : Nat} {bound : Bool} {crc : BitVec 32} {ns : List Nat}
    {rest outs : List Byte} (hi : i < ns.length)
    (hpre : (decodeChunks bufCap bound origlen size 0 (ns.take i) crc rest).result = .ok outs)
    (hmagic : ¬ magicHuf2 <+: (rest.drop (ns.take i).sum).take (ns.getD i 0)) :
    decodeChunks bufCap bound origlen size 0 ns crc rest =
      ⟨(decodeChunks bufCap bound origlen size 0 (ns.take i) crc rest).crc, .error ⟨.invalidMagic, i⟩⟩ := by
  have hsplit : ns = ns.take i ++ ns[i] :: ns.drop (i + 1) := by simp
  rw [List.getD_eq_getElem _ _ hi] at hmagic
  have hall := decodeChunks_append (ns[i] :: ns.drop (i + 1)) hpre
  rw [← hsplit, decodeChunks_badMagic fun hc => hmagic (magicHuf2_prefix_of_classify hc)] at hall
  rw [hall, List.length_take_of_le hi.le, Nat.zero_add]
  rfl

/-! ### The statement -/

/-- Settles O47: `FRM.DEC` follows the decoder of the variant, whose checks of the header come one after the
other. -/
theorem frameDecodeResult : Obligations.FrameDecodeResult := by
  intro s hs hlen frame v d returns raises
  have hsize : frame.length = s.srcLen.toNat := sourceBytes_length s
  have hlt : frame.length < 2 ^ 64 := hsize ▸ s.srcLen.isLt
  refine ⟨fun out hout => ?decoded, fun e he hinfo => ?error, fun hp => ?huf1, fun magic body res hm hframe => ?single,
    fun hp => ?stor, fun hp => ?par⟩
  case decoded =>
    have hd : decodeFrame s v frame = ⟨d.crc, .ok out⟩ := by rw [← hout]
    exact ⟨frmDec_returned hs hlen rfl hd, frmDec_full hs hlen rfl hd⟩
  case error =>
    have hd : decodeFrame s v frame = ⟨d.crc, .error ⟨e.kind, e.info⟩⟩ := by rw [← he]
    exact frmDec_errored hs hlen rfl hd hinfo
  case huf1 =>
    have hv : classify frame = .huf1 := classify_of_prefix (by decide) hp
    have hd {r : Except CmdError (List Byte)} (h : decodeHuf1 frame = r) :
        decodeFrame s .huf1 frame = ⟨s.crcr, r⟩ := congrArg _ h
    exact ⟨fun h => frmDec_errored (k := .corruptHeader) hs hlen hv (hd (decodeHuf1_short h)) hlt,
      fun h h0 => frmDec_returned hs hlen hv (hd ((decodeHuf1_whole h).trans (if_pos h0))) (Nat.zero_le _),
      fun h h0 => frmDec_errored (k := .decompressionFailed) hs hlen hv (hd ((decodeHuf1_whole h).trans (if_neg h0)))
        (fromLe_take_lt _)⟩
  case single =>
    obtain ⟨v', hv', rfl⟩ := exists_variant_of_singleMagic hm
    have hbody : body.length < 2 ^ 64 := by
      rw [hframe, List.length_append] at hlt
      omega
    have hraise {info : Nat} {crc : BitVec 32} := frmDec_single_errored (k := .corruptHeader) (info := info)
      (crc := crc) hv' hs hlen hframe
    refine ⟨fun h => hraise hbody (decodeSingle_noTable h),
      fun hcoded h h' => hraise hbody (decodeSingle_noChecksum hcoded h h'), fun h hzero => ?zeroTable,
      fun x h hcrc hcanon => hraise (x.isLt.trans (by decide))
        (decodeSingle_badTable (exists_ne_zero_of_canonical_error hcanon) h hcrc hcanon)⟩
    case zeroTable =>
      simp only [singleMagics, List.mem_cons, Prod.mk.injEq, List.not_mem_nil, or_false] at hv'
      rcases hv' with ⟨rfl, rfl⟩ | ⟨rfl, rfl⟩
      · exact ⟨fun _ => frmDec_huf2_zeroTable hs hlen h hzero hframe, fun hres => absurd hres (by decide)⟩
      · exact ⟨fun hcase => frmDec_hybrid_zeroTable hs hlen h hzero hframe fun hctl =>
            (hcase.resolve_left (by decide)).resolve_left (not_not.mpr hctl),
          fun _ => frmDec_hybrid_zeroTable_errored hs hlen h hzero hframe⟩
  case stor =>
    have hv : classify frame = .stor := classify_of_prefix (by decide) hp
    have hd {r : Except CmdError (List Byte)} (h : decodeStor frame = r) :
        decodeFrame s .stor frame = ⟨s.crcr, r⟩ := congrArg _ h
    refine ⟨fun h => frmDec_errored (k := .corruptHeader) hs hlen hv (hd (decodeStor_short h)) hlt,
      fun h hne => frmDec_errored (k := .corruptHeader) hs hlen hv (hd (decodeStor_wrongSize h hne))
        (fromLe_take_lt _),
      fun h => frmDec_returned hs hlen hv (hd (decodeStor_ok h)) ?_⟩
    rw [List.length_drop, hsize]
    exact (Nat.sub_le _ _).trans hlen
  case par =>
    have hv : classify frame = .par := classify_of_prefix (by decide) hp
    have hraise {k : ErrorKind} {info : Nat} {crc : BitVec 32} (hinfo : info < 2 ^ 64)
        (hd : decodeFrame s .par frame = ⟨crc, .error ⟨k, info⟩⟩) := frmDec_errored hs hlen hv hd hinfo
    have hk := fromLe_take_lt (frame.drop 7)
    intro k sizes bound decoded
    refine ⟨fun hctl h0 => hraise (by decide)
      (decodePar_noChunkSize (bounded_and_chunkSize_zero_iff.mpr ⟨hctl, h0⟩)), fun hsz => ?_⟩
    have hsz := bounded_and_chunkSize_zero_iff.not.mpr hsz
    refine ⟨fun h => hraise hlt (decodePar_short hsz h), fun h hc => hraise hk (decodePar_countBeyond hsz rfl h hc),
      fun h hc => ⟨fun hsum => hraise hk (decodePar_wrongSizes hsz rfl h hc hsum),
        fun hsum => ⟨fun hctl hne => ?count, fun hctl i outs hi hpre hmagic => ?chunk⟩⟩⟩
    case count => exact hraise hk (decodePar_wrongCount hsz rfl h hc hsum ⟨bounded_iff.mpr hctl, hne⟩)
    case chunk =>
      have hlength : i < (chunkSizes k frame).length := by simpa [chunkSizes] using hi
      rw [← List.drop_drop] at hmagic
      exact hraise (k := .invalidMagic) (hi.trans hk)
        ((decodePar_chunks hsz rfl h hc hsum fun hb => hctl (bounded_iff.mp hb)).trans
          (decodeChunks_badMagic_after hlength hpre hmagic))

end Sys2Proof.Proofs
end

/-! ## The checksum of a frame -/

section

namespace Sys2Proof.Proofs

open Sys2Proof.Machine Sys2Proof.Laws Sys2Proof.Claims

section
variable {table stored payload : List Byte} (htable : table.length = 256) (hstored : stored.length = 4)
include htable hstored

/-- The parts of a coded body (30_encoding.md R82). -/
theorem codedBody_parts : (table ++ stored ++ payload).take 256 = table ∧
    ((table ++ stored ++ payload).drop 256).take 4 = stored ∧ (table ++ stored ++ payload).drop 260 = payload := by
  refine ⟨?_, ?_, List.drop_left' (by rw [List.length_append]; omega)⟩
  · rw [List.append_assoc, List.take_left' htable]
  · rw [List.append_assoc, List.drop_left' htable, List.take_left' hstored]

/-- A stored checksum that is not that of the payload is `ChecksumMismatch`, unless the table is all zero
(44_frame.md R191; 90_conflicts.md C6). -/
theorem decodeSingle_codedBody_mismatch {bufCap count : Nat} {bound : Bool} {crc : BitVec 32}
    (hcoded : ∃ x ∈ table, x ≠ 0#8) (hcrc : (crc32 payload).toNat ≠ fromLe stored) :
    decodeSingle bufCap bound count crc (table ++ stored ++ payload) =
      ⟨crc32 payload, .error ⟨.checksumMismatch, fromLe stored⟩⟩ := by
  obtain ⟨h1, h2, h3⟩ := codedBody_parts (payload := payload) htable hstored
  have hd := decodeSingle_mismatch (bufCap := bufCap) (count := count) (bound := bound) (crc := crc)
    (body := table ++ stored ++ payload) (by rwa [h1]) (by simp only [List.length_append]; omega) (by rwa [h2, h3])
  rwa [h2, h3] at hd

end

/-! ### The header of a container (30_encoding.md R86) -/

section
variable {blobs : List (List Byte)}

theorem sizeArray_length (blobs : List (List Byte)) :
    (blobs.flatMap fun b => toLe 8 b.length).length = 8 * blobs.length := by
  simp [List.length_flatMap, Nat.mul_comm]

theorem containerBytes_length (blobs : List (List Byte)) :
    (containerBytes blobs).length = 15 + 8 * blobs.length + (blobs.map List.length).sum := by
  have hmagic : magicPar.length = 7 := rfl
  simp only [containerBytes, List.length_append, sizeArray_length, toLe_length, List.length_flatten, hmagic]

/-- The sizes, read back from the size array. -/
theorem sizeArray_read (hfit : ∀ b ∈ blobs, b.length < 2 ^ 64) (rest : List Byte) :
    (List.range blobs.length).map
      (fun i => fromLe ((((blobs.flatMap fun b => toLe 8 b.length) ++ rest).drop (8 * i)).take 8)) =
      blobs.map List.length := by
  induction blobs with
  | nil => rfl
  | cons b bs ih =>
    obtain ⟨hb, hbs⟩ := List.forall_mem_cons.mp hfit
    have hhead : (toLe 8 b.length).length = 8 := toLe_length 8 _
    rw [List.length_cons, List.range_succ_eq_map, List.map_cons, List.map_map, List.map_cons, List.flatMap_cons,
      List.append_assoc, Nat.mul_zero, List.drop_zero, List.take_left' hhead, fromLe_toLe hb, ← ih hbs]
    refine congrArg (b.length :: ·) (List.map_congr_left fun i _ => ?_)
    rw [Function.comp_apply, Nat.mul_succ, Nat.add_comm, ← List.drop_drop, List.drop_left' hhead]

theorem classify_containerBytes (blobs : List (List Byte)) : classify (containerBytes blobs) = .par := by
  refine classify_of_prefix (magic := magicPar) (by decide) ?_
  simp only [containerBytes, List.append_assoc]
  exact List.prefix_append _ _

theorem containerBytes_blobs : (containerBytes blobs).drop (15 + 8 * blobs.length) = blobs.flatten :=
  List.drop_left' (by simp only [List.length_append, sizeArray_length, toLe_length]; rfl)

section
variable (h : (containerBytes blobs).length < 2 ^ 64)
include h

theorem containerBytes_count : fromLe (((containerBytes blobs).drop 7).take 8) = blobs.length := by
  rw [containerBytes_length] at h
  rw [containerBytes, List.append_assoc, List.append_assoc, List.drop_left' (show magicPar.length = 7 from rfl),
    List.take_left' (toLe_length 8 _), fromLe_toLe (by omega)]

theorem blob_length_lt {b : List Byte} (hb : b ∈ blobs) : b.length < 2 ^ 64 := by
  rw [containerBytes_length] at h
  have hle := List.le_sum_of_mem (List.mem_map_of_mem (f := List.length) hb)
  omega

theorem chunkSizes_containerBytes : chunkSizes blobs.length (containerBytes blobs) = blobs.map List.length := by
  rw [← sizeArray_read (fun b => blob_length_lt h) blobs.flatten, chunkSizes]
  refine List.map_congr_left fun i _ => ?_
  have hhead : (magicPar ++ toLe 8 blobs.length).length = 15 := by rw [List.length_append, toLe_length]; rfl
  rw [containerBytes, List.append_assoc, ← List.drop_drop, List.drop_left' hhead]

/-- The decoding of a container whose header is sound: its blobs, one after the other (44_frame.md R195). -/
theorem decodePar_containerBytes {bufCap origlen size : Nat} {bound : Bool} {crc : BitVec 32}
    (hbound : bound = true → size ≠ 0 ∧ blobs.length = ceilDiv origlen size) :
    decodePar bufCap bound origlen size crc (containerBytes blobs) =
      decodeChunks bufCap bound origlen size 0 (blobs.map List.length) crc blobs.flatten := by
  have hlen := containerBytes_length blobs
  rw [← containerBytes_blobs, ← chunkSizes_containerBytes h]
  refine decodePar_chunks (fun hb => (hbound hb.1).1 hb.2) (containerBytes_count h) (by omega) (by omega) ?_
    fun hb => (hbound hb).2
  rw [chunkSizes_containerBytes h, hlen]

end

end

/-- The first blob with a wrong checksum, after blobs that are decoded (44_frame.md R195). -/
theorem decodeChunks_mismatch_after {bufCap origlen size : Nat} {bound : Bool} {crc crc' : BitVec 32}
    {pre post : List (List Byte)} {body outs : List Byte} {e : CmdError}
    (hpre : (decodeChunks bufCap bound origlen size 0 (pre.map List.length) crc pre.flatten).result = .ok outs)
    (hd : ∀ (count : Nat) (crc : BitVec 32), decodeSingle bufCap bound count crc body = ⟨crc', .error e⟩) :
    decodeChunks bufCap bound origlen size 0 ((pre ++ (magicHuf2 ++ body) :: post).map List.length) crc
      (pre ++ (magicHuf2 ++ body) :: post).flatten = ⟨crc', .error e⟩ := by
  have hsum : pre.flatten.length = (pre.map List.length).sum := List.length_flatten
  rw [List.map_append, List.flatten_append, List.map_cons, List.flatten_cons]
  rw [← decodeChunks_rest_append ((magicHuf2 ++ body) ++ post.flatten) hsum.ge] at hpre
  rw [decodeChunks_append _ hpre, List.drop_left' hsum]
  have hblob : ((magicHuf2 ++ body) ++ post.flatten).take (magicHuf2 ++ body).length = magicHuf2 ++ body :=
    List.take_left' rfl
  rw [decodeChunks_error (by rw [hblob]; exact classify_single List.mem_cons_self body)
    (by rw [hblob]; exact hd _ _)]
  rfl

/-- Settles O48: whatever the table, unless it is all zero, the checksum is the first thing verified. -/
theorem checksumIsVerifiedBeforeDecoding : Obligations.ChecksumIsVerifiedBeforeDecoding := by
  intro s table stored payload hs hlen htable hcoded hstored hcrc mismatch
  have hd := fun (bound : Bool) (count : Nat) (crc : BitVec 32) => decodeSingle_codedBody_mismatch
    (bufCap := s.cap.bufCap) (count := count) (bound := bound) (crc := crc) htable hstored hcoded hcrc
  have hinfo : fromLe stored < 2 ^ 64 := (fromLe_lt stored).trans (by rw [hstored]; decide)
  have hsingle {magic : List Byte} {v : Variant} (hm : (magic, v) ∈ singleMagics)
      (hframe : bufferBytes s .src = magic ++ table ++ stored ++ payload) : mismatch (variantCode v) :=
    frmDec_single_errored hm hs hlen (by rw [hframe]; simp only [List.append_assoc]) hinfo (hd _ _ _)
  refine ⟨hsingle (v := .huf2) (by decide), hsingle (v := .hybrid) (by decide), ?_⟩
  intro pre post outs blobs hframe hbound hpre
  have hblobs : blobs = pre ++ (magicHuf2 ++ (table ++ stored ++ payload)) :: post := by
    simp only [blobs, List.append_assoc]
  have hsize : (containerBytes blobs).length < 2 ^ 64 := by
    rw [containerBytes, ← hframe, sourceBytes_length]
    exact s.srcLen.isLt
  have hd : decodeFrame s .par (bufferBytes s .src) =
      ⟨crc32 payload, .error ⟨.checksumMismatch, fromLe stored⟩⟩ := by
    rw [hframe]
    refine (decodePar_containerBytes hsize fun hb => ?_).trans ?_
    · exact (hbound (bounded_iff.mp hb)).imp_left BitVec.toNat_ne.mp
    · rw [hblobs]
      exact decodeChunks_mismatch_after hpre (hd _)
  exact frmDec_errored hs hlen (hframe ▸ classify_containerBytes blobs) hd hinfo

end Sys2Proof.Proofs
end

/-! ## A coded payload, packed and decoded -/

section

namespace Sys2Proof.Proofs

open Sys2Proof.Machine Sys2Proof.Laws Sys2Proof.Claims

/-! ### Packed bits -/

/-- Bits packed after the partial byte of a writer follow its pending bits, up to a padding (30_encoding.md R87). -/
theorem bitsOf_packFrom {s : State} (h : WriterInv s) (bits : List Bool) : ∃ pad : Nat,
    bitsOf (packFrom s.wAcc s.wN.toNat bits) =
      (bitsOfByte s.wAcc).take s.wN.toNat ++ bits ++ List.replicate pad false := by
  induction bits generalizing s with
  | nil =>
    by_cases hn : s.wN.toNat = 0
    · exact ⟨0, by rw [packFrom, if_pos hn, hn]; rfl⟩
    · refine ⟨8 - s.wN.toNat, ?_⟩
      rw [packFrom, if_neg hn, List.append_nil, ← bitsOfByte_wAcc h]
      exact List.append_nil _
  | cons b bits ih =>
    have hbit := bitsOfByte_accWith h b
    have hpack : packFrom s.wAcc s.wN.toNat (b :: bits) =
        if s.wN.toNat = 7 then accWith s b :: packFrom 0#8 0 bits
        else packFrom (accWith s b) (s.wN.toNat + 1) bits := rfl
    by_cases hn : s.wN.toNat = 7
    · obtain ⟨pad, hpad⟩ := ih (s := { s with wAcc := 0#8, wN := 0#3 }) ⟨rfl, h.lenLe⟩
      have hpad : bitsOf (packFrom 0#8 0 bits) = bits ++ List.replicate pad false := hpad
      rw [hn, List.take_of_length_le (bitsOfByte_length _).le] at hbit
      refine ⟨pad, ?_⟩
      rw [hpack, if_pos hn, bitsOf_cons, hpad, hn, hbit, List.append_assoc, List.append_assoc]
      rfl
    · have hn' : s.wN ≠ 7#3 := fun e => hn (congrArg BitVec.toNat e)
      have hnext : (s.wN + 1#3).toNat = s.wN.toNat + 1 := by
        have := s.wN.isLt
        rw [BitVec.toNat_add]
        exact Nat.mod_eq_of_lt (show s.wN.toNat + 1 < 2 ^ 3 by omega)
      obtain ⟨pad, hpad⟩ := ih (Update.keeps_writerInv (.pendBit b hn') h)
      refine ⟨pad, ?_⟩
      simp only [hnext, hbit] at hpad
      rw [hpack, if_neg hn, hpad, List.append_assoc _ [b]]
      rfl

/-- Packed bits are the bits, then a padding (30_encoding.md R87). -/
theorem bitsOf_packBits (bits : List Bool) :
    ∃ pad : Nat, bitsOf (packBits bits) = bits ++ List.replicate pad false :=
  bitsOf_packFrom (s := State.reset) ⟨rfl, Nat.zero_le _⟩ bits

/-! ### The body of a frame -/

/-- What follows the magic in the frame of a coded stream (30_encoding.md R82, R83). -/
def codedBody (stream : List Byte) (c : Table CodeEntry) : List Byte :=
  (streamLengths stream).entries ++ toLe 4 (crc32 (packBits (streamBits c stream))).toNat ++
    packBits (streamBits c stream)

theorem frameOf_eq (magic stream : List Byte) (c : Table CodeEntry) :
    frameOf magic stream c = magic ++ codedBody stream c := by
  simp only [frameOf, codedBody, List.append_assoc]

/-- The length table of a body that begins with the entries of a table is that table. -/
theorem lengthTable_append (t : Table (BitVec 8)) (rest : List Byte) : lengthTable (t.entries ++ rest) = t := by
  refine table_ext fun x => ?_
  have hx : x.toNat < t.entries.length := t.size_eq.symm ▸ x.isLt
  rw [lengthTable, get_ofFn, List.getD_append _ _ _ _ hx, List.getD_eq_getElem _ _ hx, Table.get]

section
variable {stream : List Byte} {c : Table CodeEntry} (hc : canonical (streamLengths stream) = .ok c)
  (h64 : stream.length < 2 ^ 64)
include hc h64

/-- Every symbol of the stream has a code (44_frame.md R181). -/
theorem len_ne_zero_of_mem_stream {x : Byte} (hx : x ∈ stream) : (c.get x).len ≠ 0#8 := by
  have hcover := (encoderLengthTableCoversTheStream stream (List.ne_nil_of_mem hx) h64).1 x
  rw [((canonicalTablesArePrefixFree _ c hc).1 x).1]
  exact hcover.mpr hx

/-- The decoder finds the codes of the stream at the front of its packed bits (43_huffman.md R165). -/
theorem huffDecode_packBits {bufCap : Nat} (hcap : stream.length ≤ bufCap) :
    huffDecode c true (bitsOf (packBits (streamBits c stream))) stream.length bufCap 0 0 =
      ⟨stream, (streamBits c stream).length, .returned⟩ := by
  obtain ⟨hpf, hfit⟩ := prefixFree_canonical hc
  obtain ⟨pad, hpad⟩ := bitsOf_packBits (streamBits c stream)
  rw [hpad, huffDecode_streamBits hpf hfit (fun _ => len_ne_zero_of_mem_stream hc h64) (fun _ => le_rfl) hcap,
    Nat.sub_self, huffDecode_enough]
  simp [decodedAfter]

/-- In bounded mode the body of a frame decodes to its stream (44_frame.md R191). -/
theorem decodeSingle_codedBody {bufCap : Nat} (hne : stream ≠ []) (hcap : stream.length ≤ bufCap)
    (crc : BitVec 32) :
    decodeSingle bufCap true stream.length crc (codedBody stream c) =
      ⟨crc32 (packBits (streamBits c stream)), .ok stream⟩ := by
  have hsize := (streamLengths stream).size_eq
  have hstored := toLe_length 4 (crc32 (packBits (streamBits c stream))).toNat
  obtain ⟨htable, hcrc, hpayload⟩ := codedBody_parts (payload := packBits (streamBits c stream)) hsize hstored
  rw [← codedBody] at htable hcrc hpayload
  have hcoded : ∃ x ∈ (codedBody stream c).take 256, x ≠ 0#8 := by
    obtain ⟨x, hx⟩ := List.exists_mem_of_ne_nil stream hne
    rw [htable]
    exact ⟨(streamLengths stream).get x, List.getElem_mem _,
      ((encoderLengthTableCoversTheStream stream hne h64).1 x).mpr hx⟩
  have hlength : 260 ≤ (codedBody stream c).length := by
    simp only [codedBody, List.length_append]
    omega
  have hcanon : canonical (lengthTable (codedBody stream c)) = .ok c := by
    rw [codedBody, List.append_assoc, lengthTable_append, hc]
  have hverified : (crc32 ((codedBody stream c).drop 260)).toNat = fromLe (((codedBody stream c).drop 256).take 4) := by
    rw [hpayload, hcrc, fromLe_toLe (BitVec.isLt _)]
  have hd := huffDecode_packBits hc h64 hcap
  rw [← hpayload] at hd
  rw [decodeSingle_decoded hcoded hlength hverified hcanon hd, hpayload]
  rfl

end

end Sys2Proof.Proofs
end

/-! ## Frames encoded, swapped in and decoded -/

section

namespace Sys2Proof.Proofs

open Sys2Proof.Machine Sys2Proof.Laws Sys2Proof.Claims

/-! ### Swapping in and decoding -/

/-- `SRC` and `DST` exchanged (45_system.md R223). -/
def swapped (s : State) : State := { s with src := s.dst, srcLen := s.dstLen, dst := s.src, dstLen := s.srcLen }

theorem bufSwap_swapped {s : State} (hs : Ready s) (h : s.srcLen.toNat ≤ s.cap.bufCap) :
    exec .bufSwap s = .next (swapped s) := command_done hs (if_neg (Nat.not_lt.mpr h))

@[simp] theorem swapped_cap (s : State) : (swapped s).cap = s.cap := rfl
@[simp] theorem swapped_ctl (s : State) : (swapped s).ctl = s.ctl := rfl
@[simp] theorem swapped_symCnt (s : State) : (swapped s).symCnt = s.symCnt := rfl
@[simp] theorem swapped_origLen (s : State) : (swapped s).origLen = s.origLen := rfl
@[simp] theorem swapped_chunkSz (s : State) : (swapped s).chunkSz = s.chunkSz := rfl
@[simp] theorem swapped_crcr (s : State) : (swapped s).crcr = s.crcr := rfl
@[simp] theorem bounded_swapped (s : State) : bounded (swapped s) = bounded s := rfl
@[simp] theorem bounded_encodedState (frame : List Byte) (nsym : Nat) (crc : BitVec 32) (s : State) :
    bounded (encodedState frame nsym crc s) = bounded s := rfl

/-- The bytes of `SRC` after an output was swapped in are the output. -/
theorem bufferBytes_swapped {s : State} {out : List Byte} (hdst : s.dst = Sparse.ofList out)
    (hlen : s.dstLen.toNat = out.length) : bufferBytes (swapped s) .src = out := by
  refine List.ext_getElem (by simpa [bufferLen, swapped] using hlen) fun k _ hk => ?_
  simp [bufferBytes, bufferByte, bufferCells, swapped, hdst, hk]

/-- An output that decodes to `data`, swapped in and decoded. -/
theorem execList_swap_decode {s : State} {frame data : List Byte} (hs : Ready s) (hcap : s.cap.Valid)
    (hsrc : s.srcLen.toNat ≤ s.cap.bufCap) (hdst : s.dst = Sparse.ofList frame) (hlen : s.dstLen.toNat = frame.length)
    (hframe : frame.length ≤ s.cap.bufCap) (hdata : data.length ≤ s.cap.bufCap)
    (hd : (decodeFrame (swapped s) (classify frame) frame).result = .ok data) :
    ∃ t : State, execList [.bufSwap, .frmDec] s = .next t ∧ Ready t ∧ bufferBytes t .dst = data := by
  have hbytes := bufferBytes_swapped hdst hlen
  have hdec := frmDec_returned (s := swapped s) hs (hlen.trans_le hframe) rfl
    (crc := (decodeFrame (swapped s) (classify frame) frame).crc) (by rw [hbytes, ← hd]) hdata
  have h64 : data.length < 2 ^ 64 := by
    obtain ⟨⟨_, hbuf⟩, _⟩ := hcap
    omega
  have hrun : ∀ t : State, exec .frmDec (swapped s) = .next t → execList [.bufSwap, .frmDec] s = .next t :=
    fun t ht => by simp only [execList, bufSwap_swapped hs hsrc, ht]
  exact ⟨_, hrun _ hdec, hs, bufferBytes_putDst data { swapped s with res := _, crcr := _ } h64⟩

/-! ### The state an encoder leaves -/

/-- What a frame encoder that succeeds leaves: the empty-file frame, or what the encoder of the variant gives
(44_frame.md R182, R199). -/
theorem frameCommand_ok {s u : State} {i : Instr} {enc : State → List Byte → Except CmdError Encoded}
    (hexec : exec i s = command (encode i) s fun s => frameEncode s (enc s)) (hs : Ready s) (h : exec i s = .next u)
    (hu : Ready u) : s.srcLen.toNat ≤ s.cap.bufCap ∧ ∃ r : Encoded, u = encodedState r.frame r.nsym r.crc s ∧
      ((s.srcLen = 0#64 ∧ 12 ≤ s.cap.bufCap ∧ r.frame = emptyFrame) ∨
        (s.srcLen ≠ 0#64 ∧ enc s (bufferBytes s .src) = .ok r)) := by
  have hraised : ∀ {e : CmdError} {t : State}, frameEncode s (enc s) ≠ .raised e t := fun hr => by
    rw [hexec, command_raised hs hr] at h
    cases h
    exact takeError_not_ready _ _ _ hu
  have hdone : ∀ {t : State}, frameEncode s (enc s) = .done t → u = t := fun hr => by
    rw [hexec, command_done hs hr] at h
    cases h
    rfl
  have hlen : s.srcLen.toNat ≤ s.cap.bufCap := Nat.not_lt.mp fun hlen => hraised (frameEncode_sourceError _ hlen)
  refine ⟨hlen, ?_⟩
  by_cases h0 : s.srcLen = 0#64
  · by_cases h12 : 12 ≤ s.cap.bufCap
    · exact ⟨⟨emptyFrame, 0, s.crcr⟩, hdone (frameEncode_empty _ h0 h12), .inl ⟨h0, h12, rfl⟩⟩
    · rw [frameCommand_empty_full hexec hs h0 (by omega)] at h
      cases h
      exact absurd hu (by decide : (9#8 : BitVec 8) ≠ 0#8)
  · have hrun := frameEncode_nonempty (enc s) h0 hlen
    cases henc : enc s (bufferBytes s .src) with
    | ok r => exact ⟨r, hdone (by rw [hrun, henc]; rfl), .inr ⟨h0, rfl⟩⟩
    | error e => exact absurd (by rw [hrun, henc]; rfl) hraised

/-- A frame encoder whose frames fit and decode to the data they were made of: encoding, swapping in and decoding
gives the bytes of `SRC` (44_frame.md R197). -/
theorem frameCommand_roundTrip {s u : State} {i : Instr} {enc : State → List Byte → Except CmdError Encoded}
    (hexec : exec i s = command (encode i) s fun s => frameEncode s (enc s)) (hs : Ready s) (hcap : s.cap.Valid)
    (h : exec i s = .next u) (hu : Ready u)
    (hfits : ∀ r : Encoded, enc s (bufferBytes s .src) = .ok r → r.frame.length ≤ s.cap.bufCap)
    (hdecode : ∀ r : Encoded, bufferBytes s .src ≠ [] → (bufferBytes s .src).length ≤ s.cap.bufCap →
      enc s (bufferBytes s .src) = .ok r → (decodeFrame (swapped (encodedState r.frame r.nsym r.crc s))
        (classify r.frame) r.frame).result = .ok (bufferBytes s .src)) :
    ∃ t : State, execList [.bufSwap, .frmDec] u = .next t ∧ Ready t ∧ bufferBytes t .dst = bufferBytes s .src := by
  obtain ⟨hlen, r, rfl, hr⟩ := frameCommand_ok hexec hs h hu
  have hdata : (bufferBytes s .src).length ≤ s.cap.bufCap := (sourceBytes_length s).trans_le hlen
  obtain ⟨hframe, hd⟩ : r.frame.length ≤ s.cap.bufCap ∧
      (decodeFrame (swapped (encodedState r.frame r.nsym r.crc s)) (classify r.frame) r.frame).result =
        .ok (bufferBytes s .src) := by
    rcases hr with ⟨h0, h12, hframe⟩ | ⟨h0, henc⟩
    · rw [hframe, sourceBytes_eq_nil h0]
      exact ⟨h12, rfl⟩
    · refine ⟨hfits r henc, hdecode r (fun hnil => h0 ?_) hdata henc⟩
      rw [← ofNat_sourceBytes_length, hnil]
      rfl
  refine execList_swap_decode hu hcap hlen rfl (toNat_ofNat_of_lt ?_) hframe hdata hd
  obtain ⟨⟨_, hbuf⟩, _⟩ := hcap
  omega

/-! ### Stored frames -/

theorem encodeStored_ok {s : State} {data : List Byte} {r : Encoded} (h : encodeStored s data = .ok r) :
    r = ⟨storFrame data, 0, s.crcr⟩ ∧ (storFrame data).length ≤ s.cap.bufCap := by
  rcases Nat.lt_or_ge s.cap.bufCap (storFrame data).length with hfull | hfits
  · rw [encodeStored_full hfull] at h
    cases h
  · rw [encodeStored_done hfits] at h
    cases h
    exact ⟨rfl, hfits⟩

theorem classify_storFrame (data : List Byte) : classify (storFrame data) = .stor := by
  refine classify_of_prefix (magic := magicStor) (by decide) ?_
  rw [storFrame, List.append_assoc]
  exact List.prefix_append _ _

/-- A stored frame decodes to its data (44_frame.md R194). -/
theorem decodeStor_storFrame {data : List Byte} (h : data.length < 2 ^ 64) :
    decodeStor (storFrame data) = .ok data := by
  have hmagic : magicStor.length = 4 := rfl
  have hsize : fromLe (((storFrame data).drop 4).take 8) = data.length := by
    rw [storFrame, List.append_assoc, List.drop_left' hmagic, List.take_left' (toLe_length 8 _), fromLe_toLe h]
  rw [decodeStor_ok (by rw [hsize, storFrame_length]), storFrame,
    List.drop_left' (by rw [List.length_append, toLe_length, hmagic])]

/-- Settles O49. -/
theorem storedFrameRoundTrip : Obligations.StoredFrameRoundTrip := by
  intro s u hs hcap h hu
  refine frameCommand_roundTrip (exec_frmEncStor s) hs hcap h hu (fun r henc => ?fits) fun r _ _ henc => ?decode
  case fits =>
    obtain ⟨rfl, hfits⟩ := encodeStored_ok henc
    exact hfits
  case decode =>
    obtain ⟨rfl, _⟩ := encodeStored_ok henc
    rw [classify_storFrame]
    exact decodeStor_storFrame (sourceBytes_length s ▸ s.srcLen.isLt)

/-! ### Plain frames -/

/-- The frame of a stream is its magic and a body that decodes to the stream in bounded mode, when the registers are
as the encoder left them (44_frame.md R197). -/
theorem encodeStream_decodes {s : State} {magic stream : List Byte} {r : Encoded} (hcap : s.cap.Valid)
    (hctl : s.ctl = 1#1) (hne : stream ≠ []) (hlen : stream.length ≤ s.cap.bufCap)
    (h : encodeStream s.cap.bufCap magic stream = .ok r) :
    ∃ body : List Byte, r.frame = magic ++ body ∧ decodeSingle s.cap.bufCap (bounded s)
      (encodedState r.frame r.nsym r.crc s).symCnt.toNat r.crc body = ⟨r.crc, .ok stream⟩ := by
  obtain ⟨⟨_, hbuf⟩, _⟩ := hcap
  have h64 : stream.length < 2 ^ 64 := by omega
  obtain ⟨c, hc, rfl⟩ := encodeStream_ok h
  rw [bounded_iff.mpr hctl, encodedState_symCnt, toNat_ofNat_of_lt h64]
  exact ⟨codedBody stream c, frameOf_eq magic stream c, decodeSingle_codedBody hc h64 hne hlen _⟩

/-- Settles O50. -/
theorem plainFrameRoundTrip : Obligations.PlainFrameRoundTrip := by
  intro s u hs hcap hctl h hu
  refine frameCommand_roundTrip (exec_frmEncPlain s) hs hcap h hu (fun r => encodeStream_fits) fun r hne hlen henc => ?_
  obtain ⟨body, hframe, hd⟩ := encodeStream_decodes hcap hctl hne hlen henc
  rw [show classify r.frame = .huf2 by rw [hframe, classify_single List.mem_cons_self],
    decodeFrame_huf2 hframe]
  simp only [swapped_cap, encodedState_cap, bounded_swapped, bounded_encodedState, swapped_symCnt, swapped_crcr,
    encodedState_crcr, hd]

/-! ### Hybrid frames -/

theorem encodeHybrid_ok {cap : Config} {window lookahead : Nat} {data : List Byte} {r : Encoded}
    (h : encodeHybrid cap window lookahead data = .ok r) :
    (lzCompress data window lookahead).length ≤ cap.tokCap ∧
      (tokensToBytes (lzCompress data window lookahead)).length ≤ cap.bufCap ∧
      encodeStream cap.bufCap magicHybrid (tokensToBytes (lzCompress data window lookahead)) = .ok r := by
  rcases Nat.lt_or_ge cap.tokCap (lzCompress data window lookahead).length with htok | htok
  · rw [encodeHybrid_tokens_full htok] at h
    cases h
  rcases Nat.lt_or_ge cap.bufCap (tokensToBytes (lzCompress data window lookahead)).length with hbuf | hbuf
  · rw [encodeHybrid_bytes_full htok hbuf] at h
    cases h
  exact ⟨htok, hbuf, (encodeHybrid_eq htok hbuf).symm.trans h⟩

/-- Data that is not empty has tokens (42_lz77.md R131). -/
theorem tokensToBytes_lzCompress_ne_nil {data : List Byte} (window lookahead : Nat) (h : data ≠ []) :
    tokensToBytes (lzCompress data window lookahead) ≠ [] := by
  obtain ⟨x, xs, rfl⟩ := List.exists_cons_of_ne_nil h
  refine List.ne_nil_of_length_pos ?_
  rw [tokensToBytes_length, lzCompress, List.length_cons, lzTokensFrom_cons _ (Nat.succ_pos _), List.length_cons]
  omega

/-- A hybrid frame decodes to its data (44_frame.md R193, R197). -/
theorem decodeFrame_encodedHybrid {s : State} {r : Encoded} (hcap : s.cap.Valid) (hctl : s.ctl = 1#1)
    (hne : bufferBytes s .src ≠ []) (hlen : (bufferBytes s .src).length ≤ s.cap.bufCap)
    (h : encodeHybrid s.cap s.window.toNat s.lookahead.toNat (bufferBytes s .src) = .ok r) :
    (decodeFrame (swapped (encodedState r.frame r.nsym r.crc s)) (classify r.frame) r.frame).result =
      .ok (bufferBytes s .src) := by
  obtain ⟨htok, hbuf, henc⟩ := encodeHybrid_ok h
  obtain ⟨body, hframe, hd⟩ := encodeStream_decodes hcap hctl (tokensToBytes_lzCompress_ne_nil _ _ hne) hbuf henc
  have hlz := (lzFidelity (bufferBytes s .src) s.window.toNat s.lookahead.toNat s.cap.bufCap 0 s.window.isLt
    s.lookahead.isLt).1 hlen
  rw [sourceBytes_length, ← bounded_iff.mpr hctl] at hlz
  rw [show classify r.frame = .hybrid by rw [hframe, classify_single (List.mem_cons_of_mem _ List.mem_cons_self)],
    decodeFrame_hybrid hframe]
  simp only [swapped_cap, encodedState_cap, bounded_swapped, bounded_encodedState, swapped_symCnt, swapped_crcr,
    encodedState_crcr, swapped_origLen, encodedState_origLen, decodeHybrid_tokens hd htok, hlz]

/-! ### Containers -/

section
variable {size : Nat} {data chunk : List Byte}

/-- A chunk is not empty and has the size the decoder expects (44_frame.md R185, R196). -/
theorem chunksOf_getElem?_length {i : Nat} (hsize : size ≠ 0) (h : (chunksOf size data)[i]? = some chunk) :
    chunk ≠ [] ∧ chunk.length ≤ data.length ∧ chunkCount data.length size i = chunk.length := by
  rw [chunksOf, List.getElem?_map, Option.map_eq_some_iff] at h
  obtain ⟨j, hj, rfl⟩ := h
  obtain ⟨hi, rfl⟩ := List.getElem?_eq_some_iff.mp hj
  rw [List.length_range] at hi
  have hstart : i * size < data.length := by
    have hle := (Nat.le_div_iff_mul_le (Nat.pos_of_ne_zero hsize)).mp (Nat.succ_le_of_lt hi)
    rw [Nat.succ_mul] at hle
    omega
  rw [List.getElem_range, List.length_take, List.length_drop]
  refine ⟨List.ne_nil_of_length_pos ?_, by omega, rfl⟩
  rw [List.length_take, List.length_drop]
  omega

/-- The chunks, one after the other, are the data (44_frame.md R185). -/
theorem chunksOf_flatten (hsize : size ≠ 0) : (chunksOf size data).flatten = data := by
  have htake : ∀ m : Nat, ((List.range m).map fun i => (data.drop (i * size)).take size).flatten =
      data.take (m * size) := fun m => by
    induction m with
    | zero => rw [Nat.zero_mul]; rfl
    | succ m ih =>
      rw [List.range_succ, List.map_append, List.flatten_append, ih, Nat.succ_mul, List.take_add]
      simp
  have hcover : data.length ≤ ceilDiv data.length size * size := by
    have hmod := Nat.mod_lt (data.length + size - 1) (Nat.pos_of_ne_zero hsize)
    have hdiv := Nat.div_add_mod' (data.length + size - 1) size
    rw [ceilDiv]
    omega
  rw [chunksOf, htake, List.take_of_length_le hcover]

end

/-- The frames of chunks decode to the chunks, one after the other (44_frame.md R195, R197). -/
theorem decodeChunks_frames {bufCap origlen size i : Nat} {chunks : List (List Byte)} {blobs : List Encoded}
    {crc : BitVec 32} (hcap : bufCap < 2 ^ 64)
    (h : List.Forall₂ (fun d b => encodePlain bufCap d = .ok b) chunks blobs)
    (hchunk : ∀ (j : Nat) (d : List Byte), chunks[j]? = some d →
      d ≠ [] ∧ d.length ≤ bufCap ∧ chunkCount origlen size (i + j) = d.length) :
    (decodeChunks bufCap true origlen size i ((blobs.map Encoded.frame).map List.length) crc
      (blobs.map Encoded.frame).flatten).result = .ok chunks.flatten := by
  induction h generalizing i crc with
  | nil => rfl
  | @cons d b ds bs hd _ ih =>
    obtain ⟨hne, hlen, hcount⟩ := hchunk 0 d rfl
    obtain ⟨c, hc, rfl⟩ := encodeStream_ok hd
    have hbody := decodeSingle_codedBody hc (hlen.trans_lt hcap) hne hlen crc
    have htail := ih (i := i + 1) (crc := crc32 (packBits (streamBits c d))) fun j d' hj => by
      rw [Nat.add_right_comm]
      exact hchunk (j + 1) d' hj
    simp only [List.map_cons, List.flatten_cons, frameOf_eq]
    rw [decodeChunks_ok (crc' := crc32 (packBits (streamBits c d))) (out := d), List.drop_left' rfl, decodingAfter,
      htail]
    · rfl
    · rw [List.take_left' rfl]
      exact classify_single List.mem_cons_self _
    · rw [List.take_left' rfl]
      exact hcount ▸ hbody

theorem encodePar_ok {bufCap size : Nat} {data : List Byte} {r : Encoded} (h : encodePar bufCap size data = .ok r) :
    size ≠ 0 ∧ ∃ blobs : List Encoded, encodeChunks bufCap (chunksOf size data) = .ok blobs ∧
      r.frame = containerBytes (blobs.map Encoded.frame) := by
  rw [encodePar] at h
  split at h
  · cases h
  next hsize =>
    split at h
    · cases h
    next blobs hblobs =>
      split at h
      · cases h
      next frame hf =>
        cases h
        exact ⟨hsize, blobs, hblobs, (checkBytes_ok.mp hf).1.symm⟩

/-- A container decodes to its data (44_frame.md R195, R197). -/
theorem decodeFrame_encodedPar {s : State} {r : Encoded} (hcap : s.cap.Valid) (hctl : s.ctl = 1#1)
    (hlen : (bufferBytes s .src).length ≤ s.cap.bufCap)
    (h : encodePar s.cap.bufCap s.chunkSz.toNat (bufferBytes s .src) = .ok r) :
    (decodeFrame (swapped (encodedState r.frame r.nsym r.crc s)) (classify r.frame) r.frame).result =
      .ok (bufferBytes s .src) := by
  obtain ⟨hsize, blobs, hblobs, hframe⟩ := encodePar_ok h
  obtain ⟨⟨_, hbuf⟩, _⟩ := hcap
  have hfits : (containerBytes (blobs.map Encoded.frame)).length < 2 ^ 64 := by
    have := encodePar_fits h
    rw [hframe] at this
    omega
  have hall := encodeChunks_ok.mp hblobs
  have hcount : (blobs.map Encoded.frame).length = ceilDiv s.srcLen.toNat s.chunkSz.toNat := by
    rw [List.length_map, ← hall.length_eq, chunksOf_length, sourceBytes_length]
    rfl
  have hchunks := decodeChunks_frames (bufCap := s.cap.bufCap) (i := 0) (crc := r.crc) (by omega) hall
    (origlen := s.srcLen.toNat) (size := s.chunkSz.toNat) fun j d hj => by
      obtain ⟨hne, hle, hcnt⟩ := chunksOf_getElem?_length hsize hj
      rw [sourceBytes_length] at hcnt
      exact ⟨hne, hle.trans hlen, by rwa [Nat.zero_add]⟩
  rw [chunksOf_flatten hsize, ← decodePar_containerBytes hfits fun _ => ⟨hsize, hcount⟩, ← hframe,
    ← bounded_iff.mpr hctl] at hchunks
  rw [show classify r.frame = .par by rw [hframe, classify_containerBytes], decodeFrame_par]
  simpa only [swapped_cap, encodedState_cap, bounded_swapped, bounded_encodedState, swapped_origLen,
    encodedState_origLen, swapped_chunkSz, encodedState_chunkSz, swapped_crcr, encodedState_crcr] using hchunks

/-- Settles O51: the decoder of the variant undoes each part of its encoder. -/
theorem hybridAndContainerRoundTrip : Obligations.HybridAndContainerRoundTrip := by
  intro s u i hi hs hcap hctl h hu
  simp only [List.mem_cons, List.not_mem_nil, or_false] at hi
  rcases hi with rfl | rfl
  · exact frameCommand_roundTrip (exec_frmEncHyb s) hs hcap h hu (fun r => encodeHybrid_fits)
      fun r hne hlen => decodeFrame_encodedHybrid hcap hctl hne hlen
  · exact frameCommand_roundTrip (exec_frmEncPar s) hs hcap h hu (fun r => encodePar_fits)
      fun r _ hlen => decodeFrame_encodedPar hcap hctl hlen

end Sys2Proof.Proofs
end

/-! ## The system commands -/

section

namespace Sys2Proof.Proofs

open Sys2Proof.Machine Sys2Proof.Laws Sys2Proof.Claims

/-! ### `SYS.NOP` and `SYS.CLRERR` -/

/-- `SYS.NOP` changes nothing, run or refused (45_system.md R220, 60_exceptions.md R236). -/
theorem exec_sysNop (s : State) : exec .sysNop s = .next s := by
  by_cases hs : Ready s
  · exact command_done hs rfl
  · exact command_pending _ _ hs

/-- `SYS.CLRERR` is not refused while an error is pending (45_system.md R221). -/
theorem exec_sysClrerr (s : State) : exec .sysClrerr s = .next (clearError s) := rfl

/-- `STATUS.ERRV` is 0 exactly when the block executes commands (10_state.md R16). -/
theorem errv_eq_false_iff {s : State} : errv s = false ↔ Ready s := bne_eq_false_iff_eq

/-- Settles O14. -/
theorem nopAndClearError : Obligations.NopAndClearError :=
  ⟨⟨rfl, rfl⟩, fun s =>
    ⟨exec_sysNop s, clearError s, exec_sysClrerr s, rfl, errv_eq_false_iff.mpr (clearError_err s)⟩⟩

/-! ### `SYS.RESET` -/

/-- `SYS.RESET` is not refused while an error is pending (45_system.md R222). -/
theorem exec_sysReset (s : State) : exec .sysReset s = .next (resetBlock s) := rfl

/-- The hardware reset enters the same state (70_reset_and_hazards.md R260). -/
theorem accept_hardReset (s : State) : accept .hardReset s = .next (resetBlock s) := rfl

/-- After a reset no error is pending, no tree is present and no partial byte is held, and the reader is exhausted at
the end of the empty `SRC` (10_state.md R16, R44). -/
theorem status_resetBlock (s : State) : status (resetBlock s) = 8#64 := by
  rw [status_eq (by rw [resetBlock_rSel]; decide)]
  simp

/-- Settles O15: the rules of `resetBlock` say every field; the tables read as the tables filled with their reset
values, and `STATUS` is computed from the reset fields. -/
theorem sysResetGivesResetValues : Obligations.SysResetGivesResetValues := by
  refine ⟨rfl, fun s => ⟨resetBlock s, exec_sysReset s, accept_hardReset s, ?registers, ?lengths, ?tables, ?stores,
    ?status, ?kept⟩⟩
  case registers | lengths | stores | kept => simp
  case tables => exact fun x => ⟨get_fill _ x, get_fill _ x, get_fill _ x, get_fill _ x⟩
  case status => exact congrArg HostValue.word (status_resetBlock s)

/-! ### `BUF.SWAP` -/

/-- Exchanging the buffers twice restores the state (45_system.md R223). -/
@[simp] theorem swapped_swapped (s : State) : swapped (swapped s) = s := rfl

/-- Two swaps in a row, when both lengths are inside the capacity (45_system.md R223). -/
theorem execList_bufSwap_twice {s : State} (hs : Ready s) (hsrc : s.srcLen.toNat ≤ s.cap.bufCap)
    (hdst : s.dstLen.toNat ≤ s.cap.bufCap) : execList [.bufSwap, .bufSwap] s = .next s := by
  have hback : exec .bufSwap (swapped s) = .next (swapped (swapped s)) := bufSwap_swapped hs hdst
  simp only [execList, bufSwap_swapped hs hsrc, hback, swapped_swapped]

/-- Settles O16. -/
theorem bufSwapExchangesBuffers : Obligations.BufSwapExchangesBuffers :=
  ⟨rfl, fun _ hs =>
    ⟨fun hsrc => ⟨bufSwap_swapped hs hsrc, execList_bufSwap_twice hs hsrc⟩,
      fun hlen => command_invalidInput hs (if_pos hlen)⟩⟩

end Sys2Proof.Proofs
end

/-! ## Pending errors -/

section

namespace Sys2Proof.Proofs

open Sys2Proof.Machine Sys2Proof.Laws Sys2Proof.Claims

/-! ### Every step answers a next state -/

/-- A host write answers a next state. -/
theorem hostWrite_next (space index : Nat) (v : HostValue) (s : State) :
    ∃ t : State, hostWrite space index v s = .next t := by
  rcases hostWrite_cases space index v s with ⟨w, _, he⟩ | ⟨_, he⟩ <;> rw [he]
  · exact execute_next w s
  · exact ⟨_, rfl⟩

/-- Accepting any move answers a next state. -/
theorem accept_next (m : Input) (s : State) : ∃ t : State, accept m s = .next t := by
  cases m with
  | read | hardReset => exact ⟨_, rfl⟩
  | write space index v => exact hostWrite_next space index v s

/-- Settles O6: a step is idle or accepts the next move. -/
theorem noStepStops : Obligations.NoStepStops := by
  intro s
  obtain ⟨hidle, _⟩ := stepOfOtherMoves
  cases hm : s.inputs with
  | nil => exact ⟨s, hidle s hm⟩
  | cons m rest =>
    rw [step_of_move hm]
    exact accept_next m _

/-! ### Words refused -/

/-- Every command but the two that are not refused runs its pseudocode under its own word (60_exceptions.md R233,
R236). -/
theorem exec_eq_command {i : Instr} (hclr : i ≠ .sysClrerr) (hres : i ≠ .sysReset) :
    ∃ body : State → Ran, ∀ s : State, exec i s = command (encode i) s body := by
  cases i with
  | sysClrerr => exact absurd rfl hclr
  | sysReset => exact absurd rfl hres
  | _ => exact ⟨_, fun _ => rfl⟩

/-- Settles O10: a word runs a command or raises `IllegalCommand`, and the pseudocode of neither starts while an error
is pending. -/
theorem refusedWhileErrorPending : Obligations.RefusedWhileErrorPending := by
  intro s w hs hclr hres
  rcases execute_cases w s with ⟨i, hi, he⟩ | ⟨_, _, he⟩ <;> rw [he]
  · obtain ⟨_, rfl⟩ := encode_of_decode hi
    obtain ⟨body, hbody⟩ := exec_eq_command (i := i) (fun h => hclr (by rw [h]; rfl)) fun h => hres (by rw [h]; rfl)
    rw [hbody, command_pending _ _ hs]
  · exact command_pending _ _ hs

end Sys2Proof.Proofs
end

/-! ## The error a command leaves -/

section

namespace Sys2Proof.Proofs

open Sys2Proof.Machine Sys2Proof.Laws Sys2Proof.Claims

/-! ### The errors of the operations

`IllegalCommand` is the error of a word without a command (60_exceptions.md R240); no operation of a command fails
with it. -/

/-- A value, or an error of the commands (60_exceptions.md R231). -/
inductive CommandErrorOnly {α : Type} : Except CmdError α → Prop
  | ok (a : α) : CommandErrorOnly (.ok a)
  | error {e : CmdError} (h : e.kind ≠ .illegalCommand) : CommandErrorOnly (.error e)

@[simp] theorem commandErrorOnly_ok {α : Type} (a : α) : CommandErrorOnly (.ok a : Except CmdError α) := .ok a

@[simp] theorem commandErrorOnly_error {α : Type} {e : CmdError} :
    CommandErrorOnly (.error e : Except CmdError α) ↔ e.kind ≠ .illegalCommand :=
  ⟨fun | .error h => h, .error⟩

section
variable {α : Type} {r : Except CmdError α} {e : CmdError}

theorem CommandErrorOnly.kind_ne (h : CommandErrorOnly r) (he : r = .error e) : e.kind ≠ .illegalCommand := by
  rw [he] at h
  exact commandErrorOnly_error.mp h

/-- An operation passes on the error of an operation it calls. -/
theorem CommandErrorOnly.rethrow {β : Type} (h : CommandErrorOnly r) (he : r = .error e) :
    CommandErrorOnly (.error e : Except CmdError β) := .error (h.kind_ne he)

end

theorem commandErrorOnly_sourceBytes (s : State) : CommandErrorOnly (sourceBytes s) := by
  unfold sourceBytes
  split <;> simp

theorem commandErrorOnly_tokenList (s : State) : CommandErrorOnly (tokenList s) := by
  unfold tokenList
  split <;> simp

theorem commandErrorOnly_checkBytes (n : Nat) (xs : List Byte) : CommandErrorOnly (checkBytes n xs) := by
  unfold checkBytes
  split <;> simp

theorem commandErrorOnly_checkTokens (n : Nat) (toks : List Token) : CommandErrorOnly (checkTokens n toks) := by
  unfold checkTokens
  split <;> simp

/-! The writer and the reader (40_bitstream.md R100, R105). -/

theorem commandErrorOnly_appendByte (acc : BitVec 8) (s : State) : CommandErrorOnly (appendByteToWriter acc s) := by
  rcases appendByte_cases acc s with ⟨_, h⟩ | ⟨_, h⟩ <;> simp [h]

theorem commandErrorOnly_writeBit (s : State) (b : Bool) : CommandErrorOnly (writeBit s b) := by
  unfold writeBit
  split
  · exact commandErrorOnly_appendByte _ s
  · exact .ok _

theorem commandErrorOnly_writeBits (s : State) (bs : List Bool) : CommandErrorOnly (writeBits s bs) := by
  induction bs generalizing s with
  | nil => exact .ok s
  | cons b bs ih =>
    unfold writeBits
    split
    · exact ih _
    · exact (commandErrorOnly_writeBit s b).rethrow ‹_›

theorem commandErrorOnly_flushWriter (s : State) : CommandErrorOnly (flushWriter s) := by
  unfold flushWriter
  split
  · exact .ok s
  · exact commandErrorOnly_appendByte _ s

theorem commandErrorOnly_readBit (s : State) : CommandErrorOnly (readBit s) := by
  rcases readBit_cases s with ⟨_, h⟩ | ⟨_, h⟩ <;> simp [h]

theorem commandErrorOnly_readBits (n v : Nat) (s : State) : CommandErrorOnly (readBits n v s) := by
  induction n generalizing v s with
  | zero => exact .ok (v, s)
  | succ n ih =>
    unfold readBits
    split
    · exact ih _ _
    · exact (commandErrorOnly_readBit s).rethrow ‹_›

/-! The Huffman unit (43_huffman.md R160, R164, R165). -/

theorem commandErrorOnly_canonical (l : Table (BitVec 8)) : CommandErrorOnly (canonical l) := by
  cases h : canonical l with
  | ok c => exact .ok c
  | error e =>
    obtain ⟨_, _, _, _, _, rfl⟩ := canonical_error h
    simp

theorem commandErrorOnly_encodeSymbols (s : State) (i : Nat) (xs : List Byte) :
    CommandErrorOnly (encodeSymbols s i xs) := by
  induction xs generalizing s i with
  | nil => exact .ok s
  | cons x xs ih =>
    unfold encodeSymbols
    split
    · simp
    · split
      · exact ih _ _
      · exact (commandErrorOnly_writeBits s _).rethrow ‹_›

theorem commandErrorOnly_decodedResult (bufCap byte : Nat) (d : Decoded) :
    CommandErrorOnly (decodedResult bufCap byte d) := by
  unfold decodedResult
  split <;> simp

/-! The LZ77 tokens (42_lz77.md R135, R139). -/

theorem commandErrorOnly_appendOut (bufCap : Nat) (out : List Byte) (x : Byte) :
    CommandErrorOnly (appendOut bufCap out x) := by
  unfold appendOut
  split <;> simp

theorem commandErrorOnly_copyBack (bufCap o l : Nat) (out : List Byte) :
    CommandErrorOnly (copyBack bufCap o l out) := by
  induction l generalizing out with
  | zero => exact .ok out
  | succ l ih =>
    unfold copyBack
    split
    · exact ih _
    · exact (commandErrorOnly_appendOut ..).rethrow ‹_›

theorem commandErrorOnly_lzReplay (bufCap : Nat) (bound : Bool) (origlen i : Nat) (out : List Byte)
    (toks : List Token) : CommandErrorOnly (lzReplay bufCap bound origlen i out toks) := by
  induction toks generalizing i out with
  | nil => exact .ok out
  | cons t ts ih =>
    unfold lzReplay
    split
    · simp
    split
    · simp
    split
    · exact (commandErrorOnly_copyBack ..).rethrow ‹_›
    split
    · exact .ok _
    split
    · exact (commandErrorOnly_appendOut ..).rethrow ‹_›
    · exact ih _ _

theorem commandErrorOnly_lzDecompress (bufCap : Nat) (bound : Bool) (origlen : Nat) (toks : List Token) :
    CommandErrorOnly (lzDecompress bufCap bound origlen toks) := by
  unfold lzDecompress
  split
  · exact (commandErrorOnly_lzReplay ..).rethrow ‹_›
  · split <;> simp

theorem commandErrorOnly_bytesToTokens (bytes : List Byte) : CommandErrorOnly (bytesToTokens bytes) := by
  unfold bytesToTokens
  split <;> simp

/-! The frame encoders (44_frame.md R181, R185, R186). -/

theorem commandErrorOnly_encodeStream (bufCap : Nat) (magic stream : List Byte) :
    CommandErrorOnly (encodeStream bufCap magic stream) := by
  unfold encodeStream
  dsimp only
  split
  · exact (commandErrorOnly_canonical _).rethrow ‹_›
  split
  · exact (commandErrorOnly_checkBytes ..).rethrow ‹_›
  split
  · exact (commandErrorOnly_checkBytes ..).rethrow ‹_›
  · exact .ok _

theorem commandErrorOnly_encodeHybrid (cap : Config) (window lookahead : Nat) (data : List Byte) :
    CommandErrorOnly (encodeHybrid cap window lookahead data) := by
  unfold encodeHybrid
  split
  · exact (commandErrorOnly_checkTokens ..).rethrow ‹_›
  split
  · exact (commandErrorOnly_checkBytes ..).rethrow ‹_›
  · exact commandErrorOnly_encodeStream ..

theorem commandErrorOnly_encodeChunks (bufCap : Nat) (chunks : List (List Byte)) :
    CommandErrorOnly (encodeChunks bufCap chunks) := by
  induction chunks with
  | nil => exact .ok []
  | cons d ds ih =>
    unfold encodeChunks
    split
    · exact (commandErrorOnly_encodeStream bufCap magicHuf2 d).rethrow ‹_›
    split
    · exact ih.rethrow ‹_›
    · exact .ok _

theorem commandErrorOnly_encodePar (bufCap size : Nat) (data : List Byte) :
    CommandErrorOnly (encodePar bufCap size data) := by
  unfold encodePar
  split
  · simp
  split
  · exact (commandErrorOnly_encodeChunks ..).rethrow ‹_›
  split
  · exact (commandErrorOnly_checkBytes ..).rethrow ‹_›
  · exact .ok _

theorem commandErrorOnly_encodeStored (s : State) (data : List Byte) : CommandErrorOnly (encodeStored s data) := by
  unfold encodeStored
  split
  · exact (commandErrorOnly_checkBytes ..).rethrow ‹_›
  · exact .ok _

/-! The frame decoders (44_frame.md R189 to R195). -/

theorem commandErrorOnly_decodeHuf1 (frame : List Byte) : CommandErrorOnly (decodeHuf1 frame) := by
  unfold decodeHuf1
  split
  · simp
  · dsimp only
    split <;> simp

theorem commandErrorOnly_decodeStor (frame : List Byte) : CommandErrorOnly (decodeStor frame) := by
  unfold decodeStor
  split
  · simp
  · dsimp only
    split <;> simp

theorem commandErrorOnly_decodeSingle (bufCap : Nat) (bound : Bool) (count : Nat) (crc : BitVec 32)
    (body : List Byte) : CommandErrorOnly (decodeSingle bufCap bound count crc body).result := by
  unfold decodeSingle
  split
  · simp
  split
  · simp
  split
  · simp
  dsimp only
  split
  · simp
  split
  · exact (commandErrorOnly_canonical _).rethrow ‹_›
  · exact commandErrorOnly_decodedResult ..

theorem commandErrorOnly_decodeHybrid (cap : Config) (bound : Bool) (symcnt origlen : Nat) (crc : BitVec 32)
    (body : List Byte) : CommandErrorOnly (decodeHybrid cap bound symcnt origlen crc body).result := by
  unfold decodeHybrid
  dsimp only
  split
  · exact (commandErrorOnly_decodeSingle ..).rethrow ‹_›
  split
  · exact (commandErrorOnly_bytesToTokens _).rethrow ‹_›
  split
  · exact (commandErrorOnly_checkTokens ..).rethrow ‹_›
  · exact commandErrorOnly_lzDecompress ..

theorem commandErrorOnly_decodeChunks (bufCap : Nat) (bound : Bool) (origlen size i : Nat) (sizes : List Nat)
    (crc : BitVec 32) (rest : List Byte) :
    CommandErrorOnly (decodeChunks bufCap bound origlen size i sizes crc rest).result := by
  induction sizes generalizing i crc rest with
  | nil => exact .ok []
  | cons n ns ih =>
    unfold decodeChunks
    dsimp only
    split
    · simp
    split
    · exact (commandErrorOnly_decodeSingle ..).rethrow ‹_›
    split
    · exact (ih ..).rethrow ‹_›
    · exact .ok _

theorem commandErrorOnly_decodePar (bufCap : Nat) (bound : Bool) (origlen size : Nat) (crc : BitVec 32)
    (frame : List Byte) : CommandErrorOnly (decodePar bufCap bound origlen size crc frame).result := by
  unfold decodePar
  dsimp only
  split
  · simp
  split
  · simp
  split
  · simp
  split
  · simp
  split
  · simp
  · exact commandErrorOnly_decodeChunks ..

theorem commandErrorOnly_decodeFrame (s : State) (v : Variant) (frame : List Byte) :
    CommandErrorOnly (decodeFrame s v frame).result := by
  cases v with
  | unrecognised => simp [decodeFrame]
  | huf1 => exact commandErrorOnly_decodeHuf1 frame
  | huf2 => exact commandErrorOnly_decodeSingle ..
  | hybrid => exact commandErrorOnly_decodeHybrid ..
  | par => exact commandErrorOnly_decodePar ..
  | stor => exact commandErrorOnly_decodeStor frame

/-! ### The error registers after a command -/

/-- From `s` to `t` no error register changed, or `t` holds an error of the commands, raised by the word `w`
(60_exceptions.md R231, R233). -/
def ErrorRecorded (w : Word) (s t : State) : Prop :=
  (t.err = s.err ∧ t.errInfo = s.errInfo ∧ t.errCmd = s.errCmd) ∨
    (t.errCmd = w ∧ 1 ≤ t.err.toNat ∧ t.err.toNat ≤ 9)

/-- The codes of the errors of the commands (60_exceptions.md R231). -/
theorem errorCode_le_nine {k : ErrorKind} (h : k ≠ .illegalCommand) : (errorCode k).toNat ≤ 9 := by
  cases k with
  | illegalCommand => exact absurd rfl h
  | _ => decide

section
variable {w : Word} {s t u : State}

theorem ErrorRecorded.quiet (herr : t.err = s.err) (hinfo : t.errInfo = s.errInfo) (hcmd : t.errCmd = s.errCmd) :
    ErrorRecorded w s t := .inl ⟨herr, hinfo, hcmd⟩

/-- A raised error is recorded with the word, whatever survives the command (60_exceptions.md R233). -/
theorem ErrorRecorded.raise {k : ErrorKind} {info : Nat} (h : k ≠ .illegalCommand) :
    ErrorRecorded w s (takeError w ⟨k, info⟩ u) :=
  .inr ⟨rfl, (errorCode_bounds k).1, errorCode_le_nine h⟩

/-- The error of an operation, raised. -/
theorem ErrorRecorded.raiseFrom {α : Type} {r : Except CmdError α} {e : CmdError} (h : CommandErrorOnly r)
    (he : r = .error e) : ErrorRecorded w s (takeError w e u) := .raise (h.kind_ne he)

theorem ErrorRecorded.writer (h : t = { s with bsw := t.bsw, wLen := t.wLen, wAcc := t.wAcc, wN := t.wN }) :
    ErrorRecorded w s t := by
  rw [h]
  exact .quiet rfl rfl rfl

theorem ErrorRecorded.cursor (h : t = { s with rByte := t.rByte, rBit := t.rBit }) : ErrorRecorded w s t := by
  rw [h]
  exact .quiet rfl rfl rfl

/-- Writing `RES` records no error and forgets none. -/
theorem ErrorRecorded.setRes (h : ErrorRecorded w s t) (v : BitVec 64) : ErrorRecorded w s (setRes v t) := h

/-- A command changes the error registers as its pseudocode does, or is refused. -/
theorem errorRecorded_command {body : State → Ran} (hb : Meets w (ErrorRecorded w s) (body s)) :
    ∀ t : State, command w s body = .next t → ErrorRecorded w s t :=
  command_meets (.quiet rfl rfl rfl) hb

theorem errorRecorded_writerCommand {r : Except CmdError State} (h : CommandErrorOnly r)
    (hok : ∀ t : State, r = .ok t → t = { s with bsw := t.bsw, wLen := t.wLen, wAcc := t.wAcc, wN := t.wN }) :
    Meets w (ErrorRecorded w s) (writerCommand s r) := by
  cases r with
  | ok t => exact .writer (hok t rfl)
  | error e => exact .raiseFrom h rfl

theorem errorRecorded_produceDst {r : Except CmdError (List Byte)} (h : CommandErrorOnly r)
    (hu : ∀ out : List Byte, ErrorRecorded w s (putDst out u)) : Meets w (ErrorRecorded w s) (produceDst u r) := by
  cases r with
  | ok out => exact hu out
  | error e => exact .raiseFrom h rfl

theorem errorRecorded_frameEncode {enc : List Byte → Except CmdError Encoded}
    (h : ∀ data : List Byte, CommandErrorOnly (enc data)) : Meets w (ErrorRecorded w s) (frameEncode s enc) := by
  unfold frameEncode finishEncode
  split
  · exact .quiet rfl rfl rfl
  next hr =>
    refine .raiseFrom ?_ hr
    split
    · exact (commandErrorOnly_sourceBytes s).rethrow ‹_›
    split
    · split
      · exact (commandErrorOnly_checkBytes ..).rethrow ‹_›
      · exact .ok _
    · exact h _

end

/-- What `HUF.ENC` changes: the writer (43_huffman.md R164). -/
theorem encodeSymbols_frame {s t : State} {i : Nat} {xs : List Byte} (h : encodeSymbols s i xs = .ok t) :
    t = { s with bsw := t.bsw, wLen := t.wLen, wAcc := t.wAcc, wN := t.wN } := by
  induction xs generalizing s i with
  | nil => cases h; rfl
  | cons x xs ih =>
    simp only [encodeSymbols] at h
    split at h
    · cases h
    split at h
    next u hu =>
      have ht := ih h
      rw [writeBits_frame hu] at ht
      exact ht
    · cases h

/-! ### The commands -/

/-- A command but for `SYS.CLRERR` and `SYS.RESET` changes the error registers by raising an error of its own
(60_exceptions.md R231, R233). -/
theorem exec_errorRecorded {i : Instr} {s : State} (hclr : i ≠ .sysClrerr) (hres : i ≠ .sysReset) :
    ∀ t : State, exec i s = .next t → ErrorRecorded (encode i) s t := by
  cases i with
  | sysClrerr => exact absurd rfl hclr
  | sysReset => exact absurd rfl hres
  | sysNop | bsWinit | hufLens => exact errorRecorded_command (ErrorRecorded.quiet rfl rfl rfl)
  | bufSwap | hufBuild | hufCodes =>
    refine errorRecorded_command ?_
    split
    · exact .raise (by decide)
    · exact .quiet rfl rfl rfl
  | bsWbit b =>
    exact errorRecorded_command
      (errorRecorded_writerCommand (commandErrorOnly_writeBit s _) fun _ => writeBit_frame)
  | bsWbits n =>
    refine errorRecorded_command ?_
    split
    · exact .raise (by decide)
    · exact errorRecorded_writerCommand (commandErrorOnly_writeBits s _) fun _ => writeBits_frame
  | bsFlush =>
    exact errorRecorded_command
      (errorRecorded_writerCommand (commandErrorOnly_flushWriter s) fun _ => flushWriter_frame)
  | bsRinit sel =>
    refine errorRecorded_command ?_
    split
    · exact .quiet rfl rfl rfl
    · exact .raise (by decide)
  | bsRbit =>
    refine errorRecorded_command ?_
    split
    · exact .raise (by decide)
    split
    · exact (ErrorRecorded.cursor (readBit_frame ‹_›)).setRes _
    · exact .raiseFrom (commandErrorOnly_readBit s) ‹_›
  | bsRbits n =>
    refine errorRecorded_command ?_
    split
    · exact .raise (by decide)
    split
    · exact .raise (by decide)
    split
    · exact (ErrorRecorded.cursor (readBits_frame ‹_›)).setRes _
    · exact .raiseFrom (commandErrorOnly_readBits n 0 s) ‹_›
  | crcCalc sel =>
    refine errorRecorded_command ?_
    split
    · exact .raise (by decide)
    split
    · exact .raise (by decide)
    · exact .quiet rfl rfl rfl
  | lzComp =>
    refine errorRecorded_command ?_
    split
    · exact .raiseFrom (commandErrorOnly_sourceBytes s) ‹_›
    dsimp only
    split
    · exact .raise (by decide)
    · exact .quiet rfl rfl rfl
  | lzDecomp =>
    refine errorRecorded_command (errorRecorded_produceDst ?_ fun _ => .quiet rfl rfl rfl)
    split
    · exact (commandErrorOnly_tokenList s).rethrow ‹_›
    · exact commandErrorOnly_lzDecompress ..
  | lzT2b =>
    refine errorRecorded_command (errorRecorded_produceDst ?_ fun _ => .quiet rfl rfl rfl)
    split
    · exact (commandErrorOnly_tokenList s).rethrow ‹_›
    · split <;> simp
  | lzB2t =>
    refine errorRecorded_command ?_
    split
    · exact .raiseFrom (commandErrorOnly_sourceBytes s) ‹_›
    split
    · exact .raiseFrom (commandErrorOnly_bytesToTokens _) ‹_›
    split
    · exact .raise (by decide)
    · exact .quiet rfl rfl rfl
  | hufFreq | frmSniff =>
    refine errorRecorded_command ?_
    split
    · exact .raiseFrom (commandErrorOnly_sourceBytes s) ‹_›
    · exact .quiet rfl rfl rfl
  | hufCanon =>
    refine errorRecorded_command ?_
    split
    · exact .quiet rfl rfl rfl
    · exact .raiseFrom (commandErrorOnly_canonical s.len) ‹_›
  | hufEnc =>
    refine errorRecorded_command ?_
    split
    · exact .raiseFrom (commandErrorOnly_sourceBytes s) ‹_›
    split
    · exact .writer (encodeSymbols_frame ‹_›)
    · exact .raiseFrom (commandErrorOnly_encodeSymbols s 0 _) ‹_›
  | hufDec =>
    refine errorRecorded_command ?_
    split
    · exact .raise (by decide)
    split
    · exact .raise (by decide)
    · exact errorRecorded_produceDst (commandErrorOnly_decodedResult ..) fun _ => .quiet rfl rfl rfl
  | frmEncPlain =>
    exact errorRecorded_command (errorRecorded_frameEncode fun data => commandErrorOnly_encodeStream _ magicHuf2 data)
  | frmEncHyb => exact errorRecorded_command (errorRecorded_frameEncode (commandErrorOnly_encodeHybrid _ _ _))
  | frmEncPar => exact errorRecorded_command (errorRecorded_frameEncode (commandErrorOnly_encodePar _ _))
  | frmEncStor => exact errorRecorded_command (errorRecorded_frameEncode (commandErrorOnly_encodeStored s))
  | frmDec =>
    refine errorRecorded_command ?_
    split
    · exact .raiseFrom (commandErrorOnly_sourceBytes s) ‹_›
    refine errorRecorded_produceDst ?_ fun _ => .quiet rfl rfl rfl
    split
    · exact (commandErrorOnly_decodeFrame ..).rethrow ‹_›
    · exact commandErrorOnly_checkBytes ..

/-- `SYS.CLRERR` and `SYS.RESET` leave no error pending (45_system.md R221, R222). -/
theorem ready_of_exec_exempt {i : Instr} {s t : State} (hi : i = .sysClrerr ∨ i = .sysReset)
    (h : exec i s = .next t) : Ready t := by
  rcases hi with rfl | rfl <;> cases h <;> rfl

/-- Settles O11: the two exempt commands leave no error pending; any other records its own error, which is then
pending, or changes no error register. -/
theorem errorRecordsTheCommandWord : Obligations.ErrorRecordsTheCommandWord := by
  intro i s t hs h
  by_cases hi : i = .sysClrerr ∨ i = .sysReset
  · exact ⟨fun hp => absurd (ready_of_exec_exempt hi h) hp, fun _ hclr hres => absurd hi (by simp [hclr, hres])⟩
  · obtain ⟨hclr, hres⟩ := not_or.mp hi
    rcases exec_errorRecorded hclr hres t h with ⟨herr, hinfo, hcmd⟩ | hrec
    · exact ⟨fun hp => absurd (herr.trans hs) hp, fun _ _ _ => ⟨hinfo, hcmd⟩⟩
    · refine ⟨fun _ => hrec, fun ht => ?_⟩
      obtain ⟨_, hpos, _⟩ := hrec
      rw [ht] at hpos
      exact absurd hpos (by decide)

end Sys2Proof.Proofs
end

/-! ## Registers a frame command does not read -/

section

namespace Sys2Proof.Proofs

open Sys2Proof.Machine Sys2Proof.Laws

/-- `CTL.BOUND` overwritten (10_state.md R21). -/
def withBound (c : BitVec 1) (s : State) : State := { s with ctl := c }

/-- `WINDOW` and `LOOKAHEAD` overwritten (10_state.md R22, R23). -/
def withMatchLimits (w l : BitVec 16) (s : State) : State := { s with window := w, lookahead := l }

/-- The end of a command's pseudocode, with `f` applied to the state it leaves. -/
def mapRan (f : State → State) : Ran → Ran
  | .done t => .done (f t)
  | .raised e t => .raised e (f t)

/-- A change of the state that neither decides whether a command is refused nor touches what taking an error reads
and writes commutes with a command when it commutes with its pseudocode (60_exceptions.md R233, R236). -/
theorem command_commutes {f : State → State} {w : Word} {s t : State} {body : State → Ran} (herr : (f s).err = s.err)
    (htake : ∀ (e : CmdError) (u : State), takeError w e (f u) = f (takeError w e u))
    (hbody : body (f s) = mapRan f (body s)) (h : command w s body = .next t) : command w (f s) body = .next (f t) := by
  rcases command_cases h with ⟨hp, rfl⟩ | ⟨hs, hd⟩ | ⟨hs, e, u, hr, rfl⟩
  · exact command_pending w body fun hs => hp (herr.symm.trans hs)
  · exact command_done (herr.trans hs) (by rw [hbody, hd, mapRan])
  · rw [command_raised (e := e) (t := f u) (herr.trans hs) (by rw [hbody, hr, mapRan]), htake]

/-! ### The encoders and `CTL.BOUND` -/

theorem finishEncode_withBound (c : BitVec 1) (s : State) (r : Except CmdError Encoded) :
    finishEncode (withBound c s) r = mapRan (withBound c) (finishEncode s r) := by
  cases r <;> rfl

/-- The shared part of the frame encoders reads `SRC`, the capacity and `CRCR` only (44_frame.md R180, R182). -/
theorem frameEncode_withBound (c : BitVec 1) (s : State) (enc : List Byte → Except CmdError Encoded) :
    frameEncode (withBound c s) enc = mapRan (withBound c) (frameEncode s enc) :=
  finishEncode_withBound c s _

/-- A frame encoder whose variant does not read `CTL.BOUND` does not read it. -/
theorem frameCommand_withBound {i : Instr} {enc : State → List Byte → Except CmdError Encoded} {c : BitVec 1}
    {s t : State} (hexec : ∀ u : State, exec i u = command (encode i) u fun u => frameEncode u (enc u))
    (henc : enc (withBound c s) = enc s) (h : exec i s = .next t) :
    exec i (withBound c s) = .next (withBound c t) := by
  rw [hexec] at h ⊢
  exact command_commutes rfl (fun _ _ => rfl) (by rw [henc, frameEncode_withBound]) h

/-! ### The decoder and the limits of the match search -/

theorem produceDst_withMatchLimits (w l : BitVec 16) (s : State) (r : Except CmdError (List Byte)) :
    produceDst (withMatchLimits w l s) r = mapRan (withMatchLimits w l) (produceDst s r) := by
  cases r <;> rfl

theorem sourceBytes_withMatchLimits (w l : BitVec 16) (s : State) :
    sourceBytes (withMatchLimits w l s) = sourceBytes s := rfl

theorem decodeFrame_withMatchLimits (w l : BitVec 16) (s : State) (v : Variant) (frame : List Byte) :
    decodeFrame (withMatchLimits w l s) v frame = decodeFrame s v frame := by
  cases v <;> rfl

/-- `FRM.DEC` reads neither `WINDOW` nor `LOOKAHEAD` (44_frame.md R189). -/
theorem frmDec_withMatchLimits {w l : BitVec 16} {s t : State} (h : exec .frmDec s = .next t) :
    exec .frmDec (withMatchLimits w l s) = .next (withMatchLimits w l t) := by
  refine command_commutes rfl (fun _ _ => rfl) ?_ h
  simp only [sourceBytes_withMatchLimits, decodeFrame_withMatchLimits]
  split
  · rfl
  · exact produceDst_withMatchLimits w l { s with res := _, crcr := _ } _

/-- Settles O60: overwriting a register that a frame command does not read commutes with the command. -/
theorem encoderAndDecoderAgreeOnNothingElse : Obligations.EncoderAndDecoderAgreeOnNothingElse := by
  refine fun s t => ⟨fun c => ?_, fun w l => frmDec_withMatchLimits⟩
  simp only [List.mem_cons, List.not_mem_nil, or_false, forall_eq_or_imp, forall_eq]
  exact ⟨frameCommand_withBound exec_frmEncPlain rfl, frameCommand_withBound exec_frmEncHyb rfl,
    frameCommand_withBound exec_frmEncPar rfl, frameCommand_withBound exec_frmEncStor rfl⟩

end Sys2Proof.Proofs
end
